-- ==== Sys2Proof/Word.lean ====
section
/-! DEFINITION. The widths of the hardware (spec 00_scope.md R9, R10): a byte is 8 bits, a bus word 32, an
accumulator lane of U128 64. All values are unsigned; `+` and `*` on them wrap. -/

namespace Sys2Proof

/-- A byte: 8 bits (R9). -/
abbrev Byte := BitVec 8

/-- A 32-bit value: a bus word, a command word, the accumulator of U32 (R7, R9). -/
abbrev Word := BitVec 32

/-- A 64-bit value: an accumulator lane of U128, PX, PY (R7, R9). -/
abbrev DWord := BitVec 64

/-- An offset into the 256-byte register window, 0x000 to 0x0FF (R50). -/
abbrev Offset := BitVec 8

end Sys2Proof
end

