-- ==== Sys2Proof/Syntax.lean ====
section
/-! DEFINITION. The commands of the block: one constructor per row of spec/opcode_table.json (30_encoding.md R82).
An operand stands here as the bits of its field; whether its value is admitted is `WellFormed`. -/

namespace Sys2Proof

/-- The 14 commands (R82). TAIL32 and TAIL128 carry the field CNT, ROTL32 and ROTL64 the field ROT (R81); the
other operands are registers (R80). -/
inductive Instr where
  | nop
  | init32
  | block32
  | tail32 (cnt : BitVec 4)
  | final32
  | init128
  | block128
  | tail128 (cnt : BitVec 4)
  | final128
  | rotl32 (rot : BitVec 6)
  | rotl64 (rot : BitVec 6)
  | fmix32
  | fmix64
  | clrerr
  deriving DecidableEq, Repr

end Sys2Proof
end

