-- ==== Sys2Proof/WellFormed.lean ====
section
/-! DEFINITION. Which operand values a command admits: `FieldsOK` of 30_encoding.md R83 for the fields a command
carries. A command that fails it raises BAD_FIELD when it is performed (R81). -/

namespace Sys2Proof

/-- R83: TAIL32 has `1 <= CNT <= 3`, TAIL128 `1 <= CNT <= 15`, ROTL32 `1 <= ROT <= 31`, ROTL64 `1 <= ROT <= 63`;
the other commands carry no field. -/
def Instr.wellFormed : Instr → Bool
  | .nop => true
  | .init32 => true
  | .block32 => true
  | .tail32 cnt => decide (1 ≤ cnt.toNat ∧ cnt.toNat ≤ 3)
  | .final32 => true
  | .init128 => true
  | .block128 => true
  | .tail128 cnt => decide (1 ≤ cnt.toNat ∧ cnt.toNat ≤ 15)
  | .final128 => true
  | .rotl32 rot => decide (1 ≤ rot.toNat ∧ rot.toNat ≤ 31)
  | .rotl64 rot => decide (1 ≤ rot.toNat ∧ rot.toNat ≤ 63)
  | .fmix32 => true
  | .fmix64 => true
  | .clrerr => true

end Sys2Proof
end

