-- ==== Sys2Proof/Decode.lean ====
section
/-! DEFINITION. From a command word to a command, and back (30_encoding.md R80 to R83, R91). Decoding is total and
rejects by name. An operand field (CNT of the tails, ROT of the rotations) is read at every value, as the masks of
opcode_table.json have it; its range is checked when the command is performed, with the same error code (R83; DEDUCED, log
entry 6). -/

namespace Sys2Proof

/-- OP, bits 3:0 of a command word (R81). -/
def opField (w : Word) : BitVec 4 := w.extractLsb' 0 4

/-- CNT, bits 7:4 (R81). -/
def cntField (w : Word) : BitVec 4 := w.extractLsb' 4 4

/-- ROT, bits 13:8 (R81). -/
def rotField (w : Word) : BitVec 6 := w.extractLsb' 8 6

/-- RSV, bits 31:14 (R81). -/
def rsvField (w : Word) : BitVec 18 := w.extractLsb' 14 18

/-- Why a word is no command: the first two checks of R81. -/
inductive DecodeReject where
  /-- OP is 0xD or 0xE (R89). -/
  | illegalOp
  /-- RSV is not 0, or CNT or ROT is not 0 in a command that does not carry it (R89). -/
  | badField
  deriving DecidableEq, Repr

/-- A command that carries neither CNT nor ROT: both must be 0 (R82, R83). -/
def decodePlain (cnt : BitVec 4) (rot : BitVec 6) (i : Instr) : Except DecodeReject Instr :=
  if cnt = 0 ∧ rot = 0 then .ok i else .error .badField

/-- A command that carries CNT: ROT must be 0 (R82, R83). -/
def decodeWithCnt (rot : BitVec 6) (i : Instr) : Except DecodeReject Instr :=
  if rot = 0 then .ok i else .error .badField

/-- A command that carries ROT: CNT must be 0 (R82, R83). -/
def decodeWithRot (cnt : BitVec 4) (i : Instr) : Except DecodeReject Instr :=
  if cnt = 0 then .ok i else .error .badField

/-- The opcode map (R82) on a word whose RSV is 0. -/
def decodeOp (op cnt : BitVec 4) (rot : BitVec 6) : Except DecodeReject Instr :=
  match op.toNat with
  | 0x0 => decodePlain cnt rot .nop
  | 0x1 => decodePlain cnt rot .init32
  | 0x2 => decodePlain cnt rot .block32
  | 0x3 => decodeWithCnt rot (.tail32 cnt)
  | 0x4 => decodePlain cnt rot .final32
  | 0x5 => decodePlain cnt rot .init128
  | 0x6 => decodePlain cnt rot .block128
  | 0x7 => decodeWithCnt rot (.tail128 cnt)
  | 0x8 => decodePlain cnt rot .final128
  | 0x9 => decodeWithRot cnt (.rotl32 rot)
  | 0xA => decodeWithRot cnt (.rotl64 rot)
  | 0xB => decodePlain cnt rot .fmix32
  | 0xC => decodePlain cnt rot .fmix64
  | 0xF => decodePlain cnt rot .clrerr
  | _ => .error .illegalOp

/-- The checks of R81 in their order: the opcode first, then RSV, then CNT and ROT (R205). -/
def decodeFields (op cnt : BitVec 4) (rot : BitVec 6) (rsv : BitVec 18) : Except DecodeReject Instr :=
  if op = 0xD ∨ op = 0xE then .error .illegalOp
  else if rsv ≠ 0 then .error .badField
  else decodeOp op cnt rot

/-- The command a word of CMD stands for, or why it is none (R81). -/
def decode (w : Word) : Except DecodeReject Instr :=
  decodeFields (opField w) (cntField w) (rotField w) (rsvField w)

/-- The command word of a command: `w = OP`, `OP | (N << 4)` for CNT, `OP | (N << 8)` for ROT (R91). -/
def encode : Instr → Word
  | .nop => 0x0
  | .init32 => 0x1
  | .block32 => 0x2
  | .tail32 cnt => 0x3 ||| (cnt.setWidth 32 <<< 4)
  | .final32 => 0x4
  | .init128 => 0x5
  | .block128 => 0x6
  | .tail128 cnt => 0x7 ||| (cnt.setWidth 32 <<< 4)
  | .final128 => 0x8
  | .rotl32 rot => 0x9 ||| (rot.setWidth 32 <<< 8)
  | .rotl64 rot => 0xA ||| (rot.setWidth 32 <<< 8)
  | .fmix32 => 0xB
  | .fmix64 => 0xC
  | .clrerr => 0xF

/-- The 32-bit command word whose low `nbits` bits are those of `w` and whose other bits are 0. -/
def tableWord (nbits w : Nat) : Word := BitVec.ofNat 32 (w % 2 ^ nbits)

/-- The command the decoder reads from a table word of `nbits` bits; a command has 32 bits and no more (R80). -/
def decodeTableWord (nbits w : Nat) : Option Instr :=
  if nbits ≤ 32 then
    match decode (tableWord nbits w) with
    | .ok i => some i
    | .error _ => none
  else none

end Sys2Proof
end

