-- ==== Sys2Proof/Config.lean ====
section
/-! DEFINITION. What the platform fixes: the base address of the register window, the one open parameter of the
spec (00_scope.md R8, 92_eei_decisions.md P-BASE). -/

namespace Sys2Proof

/-- OPEN (P-BASE, log entry 3): which 256-byte block of the address space the window is. It has no body, so nothing
can be proved of its value. -/
opaque Config.baseIndex : Nat

/-- `BASE`: "an OPEN model parameter, a multiple of 256" (R50). -/
def Config.base : Nat := 256 * Config.baseIndex

end Sys2Proof
end

