-- ==== Sys2Proof/Machine/State.lean ====
section
/-! DEFINITION. The state of the block (10_state.md), what its host can do to it (20_memory.md R52,
70_reset_and_hazards.md R230), and the reasons a step can stop. -/

namespace Sys2Proof.Machine

open Sys2Proof

/-- The phase of a hash unit (R30). -/
inductive Phase where
  | idle
  | absorb
  | tailed
  | done
  deriving DecidableEq, Repr

/-- What an access or command can raise (60_exceptions.md R200). -/
inductive ErrorKind where
  | illegalOp
  | badField
  | sequence
  | bus
  deriving DecidableEq, Repr

/-- The size of a host access: 1, 2 or 4 bytes (R52). -/
inductive AccessSize where
  | one
  | two
  | four
  deriving DecidableEq, Repr

/-- What reaches the block from outside: a host's read or write at an offset of the window (R52), or the platform's
reset (R230). -/
inductive HostEvent where
  | read (off : Offset) (size : AccessSize)
  | write (off : Offset) (size : AccessSize) (wdata : Word)
  | reset
  deriving DecidableEq, Repr

/-- The block's answer to an access, `(rdata, berr)` (R52). -/
structure BusAnswer where
  rdata : Word
  berr : Bool
  deriving DecidableEq, Repr

/-- The registers of the window by name (20_memory.md R51). -/
inductive Reg where
  | id | cmd | status
  | seed32 | din32 | h32 | len32
  | seed128 | din128_0 | din128_1 | din128_2 | din128_3
  | h1_lo | h1_hi | h2_lo | h2_hi | len128_lo | len128_hi
  | px_lo | px_hi | py_lo | py_hi
  deriving DecidableEq, Repr

/-- The state of the block: "exactly the registers of this file" (10_state.md R21) that hold anything (ID is a
constant, CMD holds no state), and two fields of the model's own, `pending` and `answer`. -/
structure State where
  /-- STATUS.ERR (R24, R38). -/
  err : Bool
  /-- STATUS.ERRCODE, 4 bits (R24, R38). -/
  errCode : BitVec 4
  /-- SEED32 (R25). -/
  seed32 : Word
  /-- DIN32 (R26). -/
  din32 : Word
  /-- H32, the accumulator of U32 (R27). -/
  h32 : Word
  /-- LEN32, key bytes absorbed by U32 modulo 2^32 (R28). -/
  len32 : Word
  /-- PHASE32 (R29). -/
  phase32 : Phase
  /-- SEED128 (R31). -/
  seed128 : Word
  /-- DIN128_0, key bytes 0..3 (R32). -/
  din128_0 : Word
  /-- DIN128_1, key bytes 4..7 (R32). -/
  din128_1 : Word
  /-- DIN128_2, key bytes 8..11 (R32). -/
  din128_2 : Word
  /-- DIN128_3, key bytes 12..15 (R32). -/
  din128_3 : Word
  /-- H1, the first lane of U128 (R33). -/
  h1 : DWord
  /-- H2, the second lane of U128 (R33). -/
  h2 : DWord
  /-- LEN128, key bytes absorbed by U128 modulo 2^64 (R34). -/
  len128 : DWord
  /-- PHASE128 (R35). -/
  phase128 : Phase
  /-- PX, the operand of the primitives (R36). -/
  px : DWord
  /-- PY, the result of the primitives (R37). -/
  py : DWord
  /-- The model's own, DESIGN CHOICE (log entry 1): the accesses and resets yet to be delivered, the next one first,
  "in the order the bus delivers them" (R61). -/
  pending : List HostEvent
  /-- The model's own, DESIGN CHOICE (log entry 2): the answer to the last access, `(rdata, berr)` (R52). -/
  answer : Option BusAnswer
  deriving DecidableEq, Repr

/-- Why a step ends without a next state though nothing is wrong with the block. -/
inductive Fault where
  /-- Raised by `step` alone, when no access and no reset is pending: "The block never steps on its own" (R20), so it
  has no step to take until its host acts. No command and no access raises it. Safe: the model stops where the
  hardware waits (log entry 1). -/
  | noHostAccess
  deriving DecidableEq, Repr

/-- Why an instruction has no meaning. -/
inductive Refusal where
  /-- Raised by an arm of `exec` whose instruction has no meaning yet; at present by none. Safe: the model stops
  where the hardware goes on. -/
  | notModelled (mnemonic : String)
  deriving DecidableEq, Repr

/-- The outcome of a step, an access or a command of this machine. -/
abbrev Result := Host.Outcome State Fault Refusal

/-- The state right after reset: every register 0, both phases IDLE, ERR 0 (10_state.md R40, R230). Nothing is
pending and no access has been answered (log entries 1 and 2). -/
def State.reset : State where
  err := false
  errCode := 0
  seed32 := 0
  din32 := 0
  h32 := 0
  len32 := 0
  phase32 := .idle
  seed128 := 0
  din128_0 := 0
  din128_1 := 0
  din128_2 := 0
  din128_3 := 0
  h1 := 0
  h2 := 0
  len128 := 0
  phase128 := .idle
  px := 0
  py := 0
  pending := []
  answer := none

end Sys2Proof.Machine
end

