-- ==== Sys2Proof/Machine/Flags.lean ====
section
/-! DEFINITION. The STATUS register (10_state.md R24): the codes of its fields and the word a read gives. The block
has no other flags (R39). -/

namespace Sys2Proof.Machine

open Sys2Proof

/-- The 2-bit code of a phase (R30). -/
def phaseCode : Phase → BitVec 2
  | .idle => 0
  | .absorb => 1
  | .tailed => 2
  | .done => 3

/-- The code an error is recorded under (60_exceptions.md R200). -/
def errorCode : ErrorKind → BitVec 4
  | .illegalOp => 1
  | .badField => 2
  | .sequence => 3
  | .bus => 4

/-- `STATUS = zext_32(PHASE128 : PHASE32 : ERRCODE : 0b000 : ERR)` (R24). -/
def statusWord (s : State) : Word :=
  (phaseCode s.phase128 ++ phaseCode s.phase32 ++ s.errCode ++ 0#3 ++ BitVec.ofBool s.err : BitVec 12).setWidth 32

end Sys2Proof.Machine
end

