-- ==== Sys2Proof/Machine/Operands.lean ====
section
/-! DEFINITION. Operand assembly (30_encoding.md R84 to R88) and the conditions on operands and phases under which
a command is performed (R30, R83). -/

namespace Sys2Proof.Machine

open Sys2Proof

/-- `byte_j(W)`, bits 8j+7:8j of a word (00_scope.md R12). -/
def byteOf (w : Word) (j : Nat) : Byte := w.extractLsb' (8 * j) 8

/-- `b3:b2:b1:b0`, the little-endian word of four bytes, `b0` at the lowest address (R54, R86). -/
def wordOfBytes (b0 b1 b2 b3 : Byte) : Word := b3 ++ b2 ++ b1 ++ b0

/-- `hi : lo`, the 64-bit value of two words (R9). -/
def joinWords (hi lo : Word) : DWord := hi ++ lo

/-- Bits 31:0 of a 64-bit register (R53). -/
def lowWord (d : DWord) : Word := d.extractLsb' 0 32

/-- Bits 63:32 of a 64-bit register (R53). -/
def highWord (d : DWord) : Word := d.extractLsb' 32 32

/-- U128's seed, zero-extended (R85). -/
def seedWide (s : State) : DWord := s.seed128.setWidth 64

/-- DIN128_k, k in 0..3 (R32). -/
def din128 (s : State) (k : Nat) : Word :=
  match k with
  | 0 => s.din128_0
  | 1 => s.din128_1
  | 2 => s.din128_2
  | _ => s.din128_3

/-- Byte j of the U32 input, `byte_j(DIN32)` (R86). -/
def inputByte32 (s : State) (j : Nat) : Byte := byteOf s.din32 j

/-- Byte j of the U128 input, `byte_(j mod 4)(DIN128_(j div 4))`, j in 0..15 (R87). -/
def inputByte128 (s : State) (j : Nat) : Byte := byteOf (din128 s (j / 4)) (j % 4)

/-- The block word of U32, `k1 = DIN32` (R86). -/
def blockWord32 (s : State) : Word := s.din32

/-- The first block word of U128, `k1 = DIN128_1 : DIN128_0` (R87). -/
def blockWord1 (s : State) : DWord := joinWords s.din128_1 s.din128_0

/-- The second block word of U128, `k2 = DIN128_3 : DIN128_2` (R87). -/
def blockWord2 (s : State) : DWord := joinWords s.din128_3 s.din128_2

/-- The operand of ROTL32 and FMIX32, `PX[31:0]` (R88). -/
def primOperand32 (s : State) : Word := lowWord s.px

/-- The operand of ROTL64 and FMIX64, all of PX (R88). -/
def primOperand64 (s : State) : DWord := s.px

/-- `FieldsOK` for TAIL32: `1 <= CNT <= 3` (R83). -/
def tail32CntOk (cnt : BitVec 4) : Bool := decide (1 ≤ cnt.toNat) && decide (cnt.toNat ≤ 3)

/-- `FieldsOK` for TAIL128: `1 <= CNT <= 15` (R83). -/
def tail128CntOk (cnt : BitVec 4) : Bool := decide (1 ≤ cnt.toNat) && decide (cnt.toNat ≤ 15)

/-- `FieldsOK` for ROTL32: `1 <= ROT <= 31` (R83). -/
def rotl32RotOk (rot : BitVec 6) : Bool := decide (1 ≤ rot.toNat) && decide (rot.toNat ≤ 31)

/-- `FieldsOK` for ROTL64: `1 <= ROT <= 63` (R83). -/
def rotl64RotOk (rot : BitVec 6) : Bool := decide (1 ≤ rot.toNat) && decide (rot.toNat ≤ 63)

/-- BLOCK and TAIL are legal in ABSORB only (R30). -/
def absorbLegal : Phase → Bool
  | .idle => false
  | .absorb => true
  | .tailed => false
  | .done => false

/-- FINAL is legal in ABSORB and TAILED (R30). -/
def finalLegal : Phase → Bool
  | .idle => false
  | .absorb => true
  | .tailed => true
  | .done => false

end Sys2Proof.Machine
end

