-- ==== Sys2Proof/Machine/Ops.lean ====
section
/-! DEFINITION. The named operations every command and access is made of: recording an error (this hardware's
exception) and clearing it, writing a unit's registers, the register map, the answer on the bus. -/

namespace Sys2Proof.Machine

open Sys2Proof

/-! ### Errors -/

/-- `raise E` (60_exceptions.md R203): ERR and ERRCODE are set if ERR was 0, and "nothing else changes"; "if ERR = 1
already, neither changes (the first code is kept)" (10_state.md R38). No state is saved, no mode switched, no control
transferred (R210). -/
def recordError (e : ErrorKind) (s : State) : State :=
  if s.err then s else { s with err := true, errCode := errorCode e }

/-- `ERR <- 0; ERRCODE <- 0` (R38, 43_digest_and_control.md R186): "the only return" from an error (R210). -/
def clearError (s : State) : State := { s with err := false, errCode := 0 }

/-- The last two checks of R81, then the command: BAD_FIELD before SEQUENCE (R205); a command that raises performs
nothing else (R203, R204). -/
def checked (fieldsOk phaseOk : Bool) (perform : State → State) (s : State) : Result :=
  .next (if fieldsOk then (if phaseOk then perform s else recordError .sequence s) else recordError .badField s)

/-! ### The registers a command writes (10_state.md R41) -/

/-- The U32 registers a command may write: H32, LEN32, PHASE32. -/
def setU32 (h len : Word) (p : Phase) (s : State) : State := { s with h32 := h, len32 := len, phase32 := p }

/-- The U128 registers a command may write: H1, H2, LEN128, PHASE128. -/
def setU128 (h1 h2 len : DWord) (p : Phase) (s : State) : State :=
  { s with h1 := h1, h2 := h2, len128 := len, phase128 := p }

/-- PY, the one register a primitive writes (10_state.md R37). -/
def setPY (v : DWord) (s : State) : State := { s with py := v }

/-- The block's answer on the bus (20_memory.md R52). -/
def respond (rdata : Word) (berr : Bool) (s : State) : State := { s with answer := some ⟨rdata, berr⟩ }

/-- Every register at its reset value, in one step (70_reset_and_hazards.md R230). What the bus has yet to deliver is
not the block's and stays; no access is answered. -/
def resetBlock (s : State) : State := { State.reset with pending := s.pending }

/-! ### The register window (20_memory.md R51) -/

/-- ID, a constant (10_state.md R22). -/
def idValue : Word := 0x4D4D4833

/-- The offset of a register (R51). -/
def regOffset : Reg → Offset
  | .id => 0x00
  | .cmd => 0x04
  | .status => 0x08
  | .seed32 => 0x10
  | .din32 => 0x14
  | .h32 => 0x18
  | .len32 => 0x1C
  | .seed128 => 0x20
  | .din128_0 => 0x30
  | .din128_1 => 0x34
  | .din128_2 => 0x38
  | .din128_3 => 0x3C
  | .h1_lo => 0x40
  | .h1_hi => 0x44
  | .h2_lo => 0x48
  | .h2_hi => 0x4C
  | .len128_lo => 0x50
  | .len128_hi => 0x54
  | .px_lo => 0x60
  | .px_hi => 0x64
  | .py_lo => 0x68
  | .py_hi => 0x6C

/-- The registers of the map, in the order of their offsets (R51). -/
def mappedRegs : List Reg :=
  [.id, .cmd, .status, .seed32, .din32, .h32, .len32, .seed128, .din128_0, .din128_1, .din128_2, .din128_3,
    .h1_lo, .h1_hi, .h2_lo, .h2_hi, .len128_lo, .len128_hi, .px_lo, .px_hi, .py_lo, .py_hi]

/-- The register at an offset; `none` where the map is reserved or the offset is not a multiple of 4 (R51, R60). -/
def regAt (off : Offset) : Option Reg := mappedRegs.find? fun r => decide (regOffset r = off)

/-- `value(off)`: "the register's current value (CMD reads 0; STATUS reads as R24)" (R52). -/
def readReg (r : Reg) (s : State) : Word :=
  match r with
  | .id => idValue
  | .cmd => 0
  | .status => statusWord s
  | .seed32 => s.seed32
  | .din32 => s.din32
  | .h32 => s.h32
  | .len32 => s.len32
  | .seed128 => s.seed128
  | .din128_0 => s.din128_0
  | .din128_1 => s.din128_1
  | .din128_2 => s.din128_2
  | .din128_3 => s.din128_3
  | .h1_lo => lowWord s.h1
  | .h1_hi => highWord s.h1
  | .h2_lo => lowWord s.h2
  | .h2_hi => highWord s.h2
  | .len128_lo => lowWord s.len128
  | .len128_hi => highWord s.len128
  | .px_lo => lowWord s.px
  | .px_hi => highWord s.px
  | .py_lo => lowWord s.py
  | .py_hi => highWord s.py

/-- A bus write to a read-write register: that register alone is changed (R59), a half of PX alone for PX_LO and
PX_HI (10_state.md R36). `none` for the read-only registers, whose write is a bus error (60_exceptions.md R207), and
for CMD, whose write is a command and stores nothing (10_state.md R23). -/
def writeReg (r : Reg) (v : Word) (s : State) : Option State :=
  match r with
  | .seed32 => some { s with seed32 := v }
  | .din32 => some { s with din32 := v }
  | .seed128 => some { s with seed128 := v }
  | .din128_0 => some { s with din128_0 := v }
  | .din128_1 => some { s with din128_1 := v }
  | .din128_2 => some { s with din128_2 := v }
  | .din128_3 => some { s with din128_3 := v }
  | .px_lo => some { s with px := joinWords (highWord s.px) v }
  | .px_hi => some { s with px := joinWords v (lowWord s.px) }
  | .id | .cmd | .status | .h32 | .len32 | .h1_lo | .h1_hi | .h2_lo | .h2_hi
  | .len128_lo | .len128_hi | .py_lo | .py_hi => none

/-- The byte at an offset of the window: lane `off[1:0]` of the register at the aligned offset (R54); `none` where
no register is. A projection of the state, not an access: no byte access is legal (R53). -/
def windowByte (s : State) (off : Offset) : Option Byte :=
  (regAt (BitVec.ofNat 8 (4 * (off.toNat / 4)))).map fun r => byteOf (readReg r s) (off.toNat % 4)

/-- The platform's byte address of an offset, `BASE + off` (R50). -/
def busAddress (off : Offset) : Nat := Config.base + off.toNat

/-- The offset of a platform address; `none` outside the window, where "the block decodes no address" (R60). -/
def windowOffset (addr : Nat) : Option Offset :=
  if Config.base ≤ addr ∧ addr < Config.base + 256 then some (BitVec.ofNat 8 (addr - Config.base)) else none

end Sys2Proof.Machine
end

