-- ==== Sys2Proof/Machine/Control.lean ====
section
/-! DEFINITION. The two commands that belong to no unit (43_digest_and_control.md R185, R186). -/

namespace Sys2Proof.Machine

open Sys2Proof

/-- NOP (R185): "leaves every register unchanged", ERR included. -/
def execNop (s : State) : Result := checked true true (fun s => s) s

/-- CLRERR (R186): `ERR <- 0; ERRCODE <- 0`, every other register unchanged. -/
def execClrerr (s : State) : Result := checked true true clearError s

end Sys2Proof.Machine
end

