-- ==== Sys2Proof/Machine/Primitives.lean ====
section
/-! DEFINITION. The mixing primitives (40_primitives.md): the functions of R100 to R103 and the commands of unit P
(R106 to R109). -/

namespace Sys2Proof.Machine

open Sys2Proof

/-- `rotl32(x, r) = trunc_32(x << r) | (x >> (32 - r))`, for `0 < r < 32` (R100; at any other amount
the same formula, DEDUCED, log entry 7: no command applies it there). -/
def rotl32 (x : Word) (r : Nat) : Word := (x <<< r) ||| (x >>> (32 - r))

/-- `rotl64(x, r) = trunc_64(x << r) | (x >> (64 - r))`, for `0 < r < 64` (R101; at any other amount
the same formula, DEDUCED, log entry 7). -/
def rotl64 (x : DWord) (r : Nat) : DWord := (x <<< r) ||| (x >>> (64 - r))

/-- The avalanche of the 32-bit algorithm (R102). -/
def fmix32 (h : Word) : Word :=
  let h := h ^^^ (h >>> 16)
  let h := h * 0x85ebca6b
  let h := h ^^^ (h >>> 13)
  let h := h * 0xc2b2ae35
  h ^^^ (h >>> 16)

/-- The avalanche of the 128-bit algorithm, on one lane (R103). -/
def fmix64 (h : DWord) : DWord :=
  let h := h ^^^ (h >>> 33)
  let h := h * 0xff51afd7ed558ccd
  let h := h ^^^ (h >>> 33)
  let h := h * 0xc4ceb9fe1a85ec53
  h ^^^ (h >>> 33)

/-- ROTL32 (R106): `PY <- zext_64(rotl32(PX[31:0], ROT))`; BAD_FIELD unless `1 <= ROT <= 31`. -/
def execRotl32 (rot : BitVec 6) (s : State) : Result :=
  checked (rotl32RotOk rot) true (fun s => setPY ((rotl32 (primOperand32 s) rot.toNat).setWidth 64) s) s

/-- ROTL64 (R107): `PY <- rotl64(PX, ROT)`; BAD_FIELD unless `1 <= ROT <= 63`. -/
def execRotl64 (rot : BitVec 6) (s : State) : Result :=
  checked (rotl64RotOk rot) true (fun s => setPY (rotl64 (primOperand64 s) rot.toNat) s) s

/-- FMIX32 (R108): `PY <- zext_64(fmix32(PX[31:0]))`. -/
def execFmix32 (s : State) : Result :=
  checked true true (fun s => setPY ((fmix32 (primOperand32 s)).setWidth 64) s) s

/-- FMIX64 (R109): `PY <- fmix64(PX)`. -/
def execFmix64 (s : State) : Result :=
  checked true true (fun s => setPY (fmix64 (primOperand64 s)) s) s

end Sys2Proof.Machine
end

