-- ==== Sys2Proof/Machine/Murmur32.lean ====
section
/-! DEFINITION. Unit U32 (41_murmur3_32.md): the functions of R120 to R123, the commands of R124 to R127, and the
whole hash of R128. -/

namespace Sys2Proof.Machine

open Sys2Proof

/-- `c1` of the 32-bit algorithm (R120). -/
def c1_32 : Word := 0xcc9e2d51

/-- `c2` of the 32-bit algorithm (R120). -/
def c2_32 : Word := 0x1b873593

/-- The key-word mix (R121). -/
def mixK32 (k : Word) : Word :=
  let k := k * c1_32
  let k := rotl32 k 15
  k * c2_32

/-- The block step on accumulator `h` and block word `k` (R122). -/
def block32 (h k : Word) : Word :=
  let h := h ^^^ mixK32 k
  let h := rotl32 h 13
  h * 5 + 0xe6546b64

/-- `for j from t-1 down to 0: k <- k ^ (zext_32(b_j) << (8*j))` (R123). -/
def foldTail32 (b : Nat → Byte) : Nat → Word → Word
  | 0, k => k
  | j + 1, k => foldTail32 b j (k ^^^ ((b j).setWidth 32 <<< (8 * j)))

/-- The tail word of the `t` leftover bytes `b 0 .. b (t-1)`, from a fresh `k1 = 0` (R123). -/
def tailK32 (t : Nat) (b : Nat → Byte) : Word := foldTail32 b t 0

/-- The finalization of the accumulator, given the length `n` (R127, step 5 of the algorithm). -/
def final32 (h n : Word) : Word := fmix32 (h ^^^ n)

/-- INIT32 (R124): legal in every phase. -/
def execInit32 (s : State) : Result :=
  checked true true (fun s => setU32 s.seed32 0 .absorb s) s

/-- BLOCK32 (R125): legal in ABSORB; the phase stays. -/
def execBlock32 (s : State) : Result :=
  checked true (absorbLegal s.phase32)
    (fun s => setU32 (block32 s.h32 (blockWord32 s)) (s.len32 + 4) s.phase32 s) s

/-- TAIL32 (R126): `1 <= CNT <= 3`, legal in ABSORB; bytes of DIN32 at or above CNT are ignored. -/
def execTail32 (cnt : BitVec 4) (s : State) : Result :=
  checked (tail32CntOk cnt) (absorbLegal s.phase32)
    (fun s => setU32 (s.h32 ^^^ mixK32 (tailK32 cnt.toNat (inputByte32 s))) (s.len32 + cnt.setWidth 32) .tailed s) s

/-- FINAL32 (R127): legal in ABSORB and TAILED; LEN32 stays. -/
def execFinal32 (s : State) : Result :=
  checked true (finalLegal s.phase32) (fun s => setU32 (final32 s.h32 s.len32) s.len32 .done s) s

/-- Byte `i` of a key; past the key's end 0, which only the padding of `ld32` and `ld128` reads (R92). -/
def keyByte (key : List Byte) (i : Nat) : Byte := key.getD i 0

/-- The little-endian word at byte offset `i` of a key (R86, R128). -/
def keyWord (key : List Byte) (i : Nat) : Word :=
  wordOfBytes (keyByte key i) (keyByte key (i + 1)) (keyByte key (i + 2)) (keyByte key (i + 3))

/-- The accumulator after the first `m` blocks of a key, "increasing offset order" (R128). -/
def absorb32 (key : List Byte) (seed : Word) (m : Nat) : Word :=
  (List.range m).foldl (fun h i => block32 h (keyWord key (4 * i))) seed

/-- The tail step of the whole hash: it runs only if `t = n mod 4` is not 0 (R128). -/
def foldKeyTail32 (key : List Byte) (h : Word) : Word :=
  let nblocks := key.length / 4
  let t := key.length % 4
  if t > 0 then h ^^^ mixK32 (tailK32 t fun j => keyByte key (4 * nblocks + j)) else h

/-- `Hash32(key, seed)`, the whole algorithm (R128); `n` enters modulo 2^32 (R132). -/
def hash32 (key : List Byte) (seed : Word) : Word :=
  final32 (foldKeyTail32 key (absorb32 key seed (key.length / 4))) (BitVec.ofNat 32 key.length)

end Sys2Proof.Machine
end

