-- ==== Sys2Proof/Machine/Murmur128.lean ====
section
/-! DEFINITION. Unit U128 (42_murmur3_128.md): the functions of R150 to R153, the commands of R155 to R158, and the
whole hash of R159. -/

namespace Sys2Proof.Machine

open Sys2Proof

/-- `c1` of the 128-bit algorithm (R150). -/
def c1_64 : DWord := 0x87c37b91114253d5

/-- `c2` of the 128-bit algorithm (R150). -/
def c2_64 : DWord := 0x4cf5ad432745937f

/-- The lane-1 mix (R151). -/
def mixK1_64 (k : DWord) : DWord :=
  let k := k * c1_64
  let k := rotl64 k 31
  k * c2_64

/-- The lane-2 mix: the constants swap and the rotation differs (R151). -/
def mixK2_64 (k : DWord) : DWord :=
  let k := k * c2_64
  let k := rotl64 k 33
  k * c1_64

/-- The lane-1 half of the block step; it reads the `h2` from before the step (R152). -/
def blockLane1 (h1 h2 k1 : DWord) : DWord :=
  let h1 := h1 ^^^ mixK1_64 k1
  let h1 := rotl64 h1 27
  let h1 := h1 + h2
  h1 * 5 + 0x52dce729

/-- The lane-2 half of the block step; it reads the `h1` that lane 1 has just computed (R152). -/
def blockLane2 (newH1 h2 k2 : DWord) : DWord :=
  let h2 := h2 ^^^ mixK2_64 k2
  let h2 := rotl64 h2 31
  let h2 := h2 + newH1
  h2 * 5 + 0x38495ab5

/-- The block step on lanes and block words (R152). -/
def block128 (h1 h2 k1 k2 : DWord) : DWord × DWord :=
  let newH1 := blockLane1 h1 h2 k1
  (newH1, blockLane2 newH1 h2 k2)

/-- `for j from t-1 down to 0: k <- k ^ (zext_64(b_j) << (8*j))` (R153). -/
def foldTail64 (b : Nat → Byte) : Nat → DWord → DWord
  | 0, k => k
  | j + 1, k => foldTail64 b j (k ^^^ ((b j).setWidth 64 <<< (8 * j)))

/-- The lane-1 tail word: bytes `min(t,8)-1` down to 0 (R153). -/
def tailK1_64 (t : Nat) (b : Nat → Byte) : DWord := foldTail64 b (min t 8) 0

/-- The lane-2 tail word: bytes `t-1` down to 8, each shifted by `8*(j-8)`; used only when `t > 8` (R153). -/
def tailK2_64 (t : Nat) (b : Nat → Byte) : DWord := foldTail64 (fun j => b (j + 8)) (t - 8) 0

/-- The tail step on the lanes: lane 2 only if `t > 8`, lane 1 always (R157). -/
def tail128 (t : Nat) (b : Nat → Byte) (h1 h2 : DWord) : DWord × DWord :=
  let h2 := if t > 8 then h2 ^^^ mixK2_64 (tailK2_64 t b) else h2
  (h1 ^^^ mixK1_64 (tailK1_64 t b), h2)

/-- The finalization of the lanes, given the length `n` (R158). -/
def final128 (h1 h2 n : DWord) : DWord × DWord :=
  let h1 := h1 ^^^ n
  let h2 := h2 ^^^ n
  let h1 := h1 + h2
  let h2 := h2 + h1
  let h1 := fmix64 h1
  let h2 := fmix64 h2
  let h1 := h1 + h2
  let h2 := h2 + h1
  (h1, h2)

/-- INIT128 (R155): both lanes get the zero-extended seed; legal in every phase. -/
def execInit128 (s : State) : Result :=
  checked true true (fun s => setU128 (seedWide s) (seedWide s) 0 .absorb s) s

/-- BLOCK128 (R156): legal in ABSORB; both lanes in one step (R154); the phase stays. -/
def execBlock128 (s : State) : Result :=
  checked true (absorbLegal s.phase128)
    (fun s =>
      let h := block128 s.h1 s.h2 (blockWord1 s) (blockWord2 s)
      setU128 h.1 h.2 (s.len128 + 16) s.phase128 s) s

/-- TAIL128 (R157): `1 <= CNT <= 15`, legal in ABSORB; input bytes at or above CNT are ignored. -/
def execTail128 (cnt : BitVec 4) (s : State) : Result :=
  checked (tail128CntOk cnt) (absorbLegal s.phase128)
    (fun s =>
      let h := tail128 cnt.toNat (inputByte128 s) s.h1 s.h2
      setU128 h.1 h.2 (s.len128 + cnt.setWidth 64) .tailed s) s

/-- FINAL128 (R158): legal in ABSORB and TAILED; LEN128 stays. -/
def execFinal128 (s : State) : Result :=
  checked true (finalLegal s.phase128)
    (fun s =>
      let h := final128 s.h1 s.h2 s.len128
      setU128 h.1 h.2 s.len128 .done s) s

/-- The little-endian 64-bit word at byte offset `i` of a key (R87, R159). -/
def keyDWord (key : List Byte) (i : Nat) : DWord := joinWords (keyWord key (i + 4)) (keyWord key i)

/-- The lanes after the first `m` blocks of a key, in increasing offset order (R159). -/
def absorb128 (key : List Byte) (seed : Word) (m : Nat) : DWord × DWord :=
  (List.range m).foldl
    (fun h i => block128 h.1 h.2 (keyDWord key (16 * i)) (keyDWord key (16 * i + 8)))
    (seed.setWidth 64, seed.setWidth 64)

/-- The tail step of the whole hash: lane 2 if `t > 8`, lane 1 if `t > 0`, for `t = n mod 16` (R159). -/
def foldKeyTail128 (key : List Byte) (h : DWord × DWord) : DWord × DWord :=
  let nblocks := key.length / 16
  let t := key.length % 16
  if t > 0 then tail128 t (fun j => keyByte key (16 * nblocks + j)) h.1 h.2 else h

/-- `Hash128(key, seed)`, the whole algorithm (R159); `n` enters modulo 2^64. -/
def hash128 (key : List Byte) (seed : Word) : DWord × DWord :=
  let h := foldKeyTail128 key (absorb128 key seed (key.length / 16))
  final128 h.1 h.2 (BitVec.ofNat 64 key.length)

end Sys2Proof.Machine
end

