-- ==== Sys2Proof/Machine/Dispatch.lean ====
section
/-! DEFINITION. One arm per command of 30_encoding.md R82. -/

namespace Sys2Proof.Machine

open Sys2Proof

def exec (i : Instr) (s : State) : Host.Outcome State Fault Refusal :=
  match i with
  | .nop => Sys2Proof.Machine.execNop s
  | .init32 => Sys2Proof.Machine.execInit32 s
  | .block32 => Sys2Proof.Machine.execBlock32 s
  | .tail32 cnt => Sys2Proof.Machine.execTail32 cnt s
  | .final32 => Sys2Proof.Machine.execFinal32 s
  | .init128 => Sys2Proof.Machine.execInit128 s
  | .block128 => Sys2Proof.Machine.execBlock128 s
  | .tail128 cnt => Sys2Proof.Machine.execTail128 cnt s
  | .final128 => Sys2Proof.Machine.execFinal128 s
  | .rotl32 rot => Sys2Proof.Machine.execRotl32 rot s
  | .rotl64 rot => Sys2Proof.Machine.execRotl64 rot s
  | .fmix32 => Sys2Proof.Machine.execFmix32 s
  | .fmix64 => Sys2Proof.Machine.execFmix64 s
  | .clrerr => Sys2Proof.Machine.execClrerr s

end Sys2Proof.Machine
end

