-- ==== Sys2Proof/Machine/Bus.lean ====
section
/-! DEFINITION. The host's accesses (20_memory.md R52) and the reset event (70_reset_and_hazards.md R230), one atomic
step each (R58). -/

namespace Sys2Proof.Machine

open Sys2Proof

/-- The error a rejected command word raises (30_encoding.md R81, R89). -/
def rejectError : DecodeReject → ErrorKind
  | .illegalOp => .illegalOp
  | .badField => .badField

/-- `Command(w)` (R81): a word that decodes is performed, any other raises what the decoder names. -/
def performCommand (w : Word) (s : State) : Result :=
  match decode w with
  | .ok i => exec i s
  | .error r => .next (recordError (rejectError r) s)

/-- An access is legal in width and alignment: `size = 4` and `off[1:0] = 0` (R52, R57). -/
def wordAligned (off : Offset) (size : AccessSize) : Bool := decide (size = .four) && decide (off.toNat % 4 = 0)

/-- `raise BUS; return (0, 1)` (R52, 60_exceptions.md R207). -/
def busError (s : State) : Result := .next (respond 0 true (recordError .bus s))

/-- The answer `(0, 0)` of a write that the bus completes, whatever the command raised (R52). -/
def completeWrite : Result → Result
  | .next s => .next (respond 0 false s)
  | .fault f => .fault f
  | .refused r => .refused r

/-- A host read (R52): a legal one changes no register (R59). -/
def busRead (off : Offset) (size : AccessSize) (s : State) : Result :=
  if wordAligned off size then
    match regAt off with
    | some r => .next (respond (readReg r s) false s)
    | none => busError s
  else busError s

/-- A host write (R52): a command at CMD, a store at a read-write register, a bus error anywhere else. -/
def busWrite (off : Offset) (size : AccessSize) (wdata : Word) (s : State) : Result :=
  if wordAligned off size then
    match regAt off with
    | some .cmd => completeWrite (performCommand wdata s)
    | some r =>
      match writeReg r wdata s with
      | some s' => .next (respond 0 false s')
      | none => busError s
    | none => busError s
  else busError s

/-- One event: an access or a reset. -/
def perform (e : HostEvent) (s : State) : Result :=
  match e with
  | .read off size => busRead off size s
  | .write off size wdata => busWrite off size wdata s
  | .reset => .next (resetBlock s)

/-- The next pending event, taken off the list and performed; with nothing pending the block has no step (R20). -/
def deliver (s : State) : Result :=
  match s.pending with
  | [] => .fault .noHostAccess
  | e :: rest => perform e { s with pending := rest }

/-- The write that brings a command word to the block: 32 bits to CMD, offset 0x004 (R80). -/
def commandWrite (w : Word) : HostEvent := .write 0x04 .four w

end Sys2Proof.Machine
end

