-- ==== Sys2Proof/Machine/Step.lean ====
section
/-! DEFINITION. One step of the block: its answer to the next pending access or reset (10_state.md R20,
20_memory.md R61). -/

namespace Sys2Proof.Machine

open Sys2Proof

/-- One step (R20): the first pending event is performed, whole (R58). -/
def step (s : State) : Host.Outcome State Fault Refusal := deliver s

/-- The state in which the next event is the bus write of this command word to CMD (log entry 1). -/
def State.withFetchWord (s : State) (nbits w : Nat) : State :=
  { s with pending := commandWrite (tableWord nbits w) :: s.pending }

end Sys2Proof.Machine
end

