-- ==== Sys2Proof/Machine/Digest.lean ====
section
/-! DEFINITION. Digests and their views (43_digest_and_control.md R180 to R184): stateless projections of the
accumulators in phase DONE. -/

namespace Sys2Proof.Machine

open Sys2Proof

/-- A digest: "always length 4 or 16" (R184). -/
inductive Digest where
  | four (bytes : Vector Byte 4)
  | sixteen (bytes : Vector Byte 16)
  deriving DecidableEq, Repr

/-- `byte i` of a 64-bit lane, bits 8i+7:8i (R181). -/
def laneByte (d : DWord) (i : Nat) : Byte := d.extractLsb' (8 * i) 8

/-- The 32-bit digest, "exists when PHASE32 = DONE": `DIG32[i] = byte_i(H32)` (R180). -/
def digest32 (s : State) : Option Digest :=
  if s.phase32 = .done then some (.four (Vector.ofFn fun i => byteOf s.h32 i)) else none

/-- The 128-bit digest, "exists when PHASE128 = DONE": the bytes of H1, then those of H2 (R181). -/
def digest128 (s : State) : Option Digest :=
  if s.phase128 = .done then
    some (.sixteen (Vector.ofFn fun i => if i.val < 8 then laneByte s.h1 i else laneByte s.h2 (i - 8)))
  else none

/-- The raw-bytes view, "the identity" (R184). -/
def Digest.asBytes : Digest → List Byte
  | .four b => b.toList
  | .sixteen b => b.toList

/-- Word k of a byte list, `D[4k+3] : D[4k+2] : D[4k+1] : D[4k]` (R182). -/
def viewWord (d : List Byte) (k : Nat) : Word := keyWord d (4 * k)

/-- The 64-bit word k of a byte list, `D[8k+7] : ... : D[8k]`, missing bytes 0 (R183). -/
def viewDWord (d : List Byte) (k : Nat) : DWord := keyDWord d (8 * k)

/-- `as_u32_words`: one word for 4 bytes, four for 16 (R182). -/
def Digest.asU32Words (d : Digest) : List Word :=
  match d with
  | .four _ => [viewWord d.asBytes 0]
  | .sixteen _ => [viewWord d.asBytes 0, viewWord d.asBytes 1, viewWord d.asBytes 2, viewWord d.asBytes 3]

/-- `as_u64_words`: one zero-padded word for 4 bytes, two words for 16 (R183). -/
def Digest.asU64Words (d : Digest) : List DWord :=
  match d with
  | .four _ => [viewDWord d.asBytes 0]
  | .sixteen _ => [viewDWord d.asBytes 0, viewDWord d.asBytes 1]

end Sys2Proof.Machine
end

