-- ==== Sys2Proof/Machine/HostProgram.lean ====
section
/-! DEFINITION. The host's side in the words of 30_encoding.md R91 and R92: `wr`, `rd`, `cmd`, the loads, and the
canonical sequences of 41_murmur3_32.md R130 and 42_murmur3_128.md R160, each a list of bus accesses. -/

namespace Sys2Proof.Machine

open Sys2Proof

/-- `wr REG, imm32`: a 32-bit write to the register's offset (R91). -/
def wr (r : Reg) (v : Word) : HostEvent := .write (regOffset r) .four v

/-- `rd REG`: a 32-bit read at the register's offset (R91). -/
def rd (r : Reg) : HostEvent := .read (regOffset r) .four

/-- `cmd MNEMONIC ...`: `wr CMD, w` with the command's word (R91, R92). -/
def cmd (i : Instr) : HostEvent := wr .cmd (encode i)

/-- `ld32` of the key bytes from offset `i` on; missing bytes are 0 (R92). -/
def ld32 (key : List Byte) (i : Nat) : List HostEvent := [wr .din32 (keyWord key i)]

/-- `ld128` of the key bytes from offset `i` on, four writes; missing bytes are 0 (R92). -/
def ld128 (key : List Byte) (i : Nat) : List HostEvent :=
  [wr .din128_0 (keyWord key i), wr .din128_1 (keyWord key (i + 4)),
   wr .din128_2 (keyWord key (i + 8)), wr .din128_3 (keyWord key (i + 12))]

/-- The tail of the canonical 32-bit sequence: nothing if `n mod 4 = 0` (R130). -/
def tailAccesses32 (key : List Byte) : List HostEvent :=
  if key.length % 4 > 0 then
    ld32 key (4 * (key.length / 4)) ++ [cmd (.tail32 (BitVec.ofNat 4 (key.length % 4)))]
  else []

/-- The canonical sequence up to its FINAL32 (R130). -/
def hashAccesses32 (key : List Byte) (seed : Word) : List HostEvent :=
  [wr .seed32 seed, cmd .init32]
    ++ (List.range (key.length / 4)).flatMap (fun i => ld32 key (4 * i) ++ [cmd .block32])
    ++ tailAccesses32 key ++ [cmd .final32]

/-- `hash32 key, seed`: the canonical sequence, with its read of H32 (R92, R130). -/
def canonical32 (key : List Byte) (seed : Word) : List HostEvent := hashAccesses32 key seed ++ [rd .h32]

/-- The tail of the canonical 128-bit sequence: nothing if `n mod 16 = 0` (R160). -/
def tailAccesses128 (key : List Byte) : List HostEvent :=
  if key.length % 16 > 0 then
    ld128 key (16 * (key.length / 16)) ++ [cmd (.tail128 (BitVec.ofNat 4 (key.length % 16)))]
  else []

/-- The canonical sequence up to its FINAL128 (R160). -/
def hashAccesses128 (key : List Byte) (seed : Word) : List HostEvent :=
  [wr .seed128 seed, cmd .init128]
    ++ (List.range (key.length / 16)).flatMap (fun i => ld128 key (16 * i) ++ [cmd .block128])
    ++ tailAccesses128 key ++ [cmd .final128]

/-- `hash128 key, seed`: the canonical sequence, with its four reads (R92, R160). -/
def canonical128 (key : List Byte) (seed : Word) : List HostEvent :=
  hashAccesses128 key seed ++ [rd .h1_lo, rd .h1_hi, rd .h2_lo, rd .h2_hi]

end Sys2Proof.Machine
end

