-- ==== Sys2Proof/Safety.lean ====
section
/-! DEFINITION. The terms claims use: runs over a list of accesses, the invariant of the error fields, what each unit
can see of the state, which accesses touch a unit, and the key bytes a host has delivered to it. -/

namespace Sys2Proof.Safety

open Sys2Proof Sys2Proof.Machine

/-- A run of as many steps as there are events in `evs`, the events delivered in order before whatever follows. -/
def runEvents (evs : List HostEvent) (rest : List HostEvent) (s : State) : Result :=
  Host.Core.run Sys2Proof.core evs.length { s with pending := evs ++ rest }

/-- The step that an event takes on a block: the event is delivered next, what was pending in `s` follows. -/
def stepOf (e : HostEvent) (s : State) : Result := step { s with pending := e :: s.pending }

/-- The state of R38 after an error of code `c`: ERR is 1, ERRCODE is `c` if ERR was 0 and as before if it was 1. -/
def raised (c : BitVec 4) (s : State) : State := { s with err := true, errCode := if s.err then s.errCode else c }

/-- The state with the answer `(v, b)` on the bus (20_memory.md R52). -/
def answered (v : Word) (b : Bool) (s : State) : State := { s with answer := some ⟨v, b⟩ }

/-- The event raises an error: seen on the block with ERR cleared, where every raised error shows (R38). -/
def raises (e : HostEvent) (s : State) (c : BitVec 4) : Prop :=
  ∃ t, stepOf e { s with err := false, errCode := 0 } = .next t ∧ t.err = true ∧ t.errCode = c

/-- ERRCODE is 0 exactly while ERR = 0 (10_state.md R24), and never one of the reserved values 5..15
(60_exceptions.md R200). -/
abbrev errorFieldsOk (s : State) : Prop := (s.err = false ↔ s.errCode = 0) ∧ s.errCode.toNat ≤ 4

/-- The registers of U32 (10_state.md R21): SEED32, DIN32, H32, LEN32, PHASE32. -/
def viewU32 (s : State) : Word × Word × Word × Word × Phase := (s.seed32, s.din32, s.h32, s.len32, s.phase32)

/-- The registers of U128 (10_state.md R21): SEED128, DIN128_0..3, H1, H2, LEN128, PHASE128. -/
def viewU128 (s : State) : Word × Word × Word × Word × Word × DWord × DWord × DWord × Phase :=
  (s.seed128, s.din128_0, s.din128_1, s.din128_2, s.din128_3, s.h1, s.h2, s.len128, s.phase128)

/-- The registers of P (10_state.md R21): PX, PY. -/
def viewP (s : State) : DWord × DWord := (s.px, s.py)

/-- The commands of U32 (30_encoding.md R82). -/
def isU32Command : Instr → Bool
  | .nop => false
  | .init32 => true
  | .block32 => true
  | .tail32 _ => true
  | .final32 => true
  | .init128 => false
  | .block128 => false
  | .tail128 _ => false
  | .final128 => false
  | .rotl32 _ => false
  | .rotl64 _ => false
  | .fmix32 => false
  | .fmix64 => false
  | .clrerr => false

/-- The commands of U128 (30_encoding.md R82). -/
def isU128Command : Instr → Bool
  | .nop => false
  | .init32 => false
  | .block32 => false
  | .tail32 _ => false
  | .final32 => false
  | .init128 => true
  | .block128 => true
  | .tail128 _ => true
  | .final128 => true
  | .rotl32 _ => false
  | .rotl64 _ => false
  | .fmix32 => false
  | .fmix64 => false
  | .clrerr => false

/-- The commands of P (30_encoding.md R82). -/
def isPCommand : Instr → Bool
  | .nop => false
  | .init32 => false
  | .block32 => false
  | .tail32 _ => false
  | .final32 => false
  | .init128 => false
  | .block128 => false
  | .tail128 _ => false
  | .final128 => false
  | .rotl32 _ => true
  | .rotl64 _ => true
  | .fmix32 => true
  | .fmix64 => true
  | .clrerr => false

/-- The command an event brings: a 32-bit write to CMD of a word that decodes. -/
def commandOf (e : HostEvent) : Option Instr :=
  match e with
  | .write off size w =>
    if off = 0x04 ∧ size = .four then
      match decode w with
      | .ok i => some i
      | .error _ => none
    else none
  | .read _ _ => none
  | .reset => none

/-- The register an event stores to: a 32-bit write at its offset. -/
def storeOf (e : HostEvent) : Option Reg :=
  match e with
  | .write off size _ => if size = .four then regAt off else none
  | .read _ _ => none
  | .reset => none

/-- The events that are an "access to SEED32, DIN32 or a U32 command" (41_murmur3_32.md R130) or a reset: the writes
among them, since a read changes nothing (20_memory.md R59). -/
def touchesU32 (e : HostEvent) : Bool :=
  decide (e = .reset) || decide (storeOf e = some .seed32) || decide (storeOf e = some .din32)
    || (commandOf e).any isU32Command

/-- The events that are an "access to SEED128, DIN128_0..3 or a U128 command" (42_murmur3_128.md R160) or a reset. -/
def touchesU128 (e : HostEvent) : Bool :=
  decide (e = .reset) || decide (storeOf e = some .seed128)
    || decide (storeOf e = some .din128_0) || decide (storeOf e = some .din128_1)
    || decide (storeOf e = some .din128_2) || decide (storeOf e = some .din128_3)
    || (commandOf e).any isU128Command

/-- What a host has delivered to a hash unit since the unit's last INIT: the seed INIT took, and the key bytes in
command order (41_murmur3_32.md R131, 42_murmur3_128.md R161). -/
structure Delivered where
  seed : Word
  key : List Byte
  deriving DecidableEq, Repr

/-- The delivery with more key bytes at its end. -/
def Delivered.append (d : Delivered) (bytes : List Byte) : Delivered := ⟨d.seed, d.key ++ bytes⟩

/-- The low `t` bytes of DIN32 (R86). -/
def lowInput32 (s : State) (t : Nat) : List Byte := (List.range t).map (inputByte32 s)

/-- The low `t` bytes of DIN128_0..3 (R87). -/
def lowInput128 (s : State) (t : Nat) : List Byte := (List.range t).map (inputByte128 s)

/-- How one event changes what has been delivered to U32: INIT32 starts with SEED32 and no byte, a BLOCK32 or TAIL32
that is performed adds its bytes, a reset forgets all, nothing else matters. -/
def track32 (s : State) (e : HostEvent) (d : Option Delivered) : Option Delivered :=
  if e = .reset then none
  else match commandOf e with
    | some .init32 => some ⟨s.seed32, []⟩
    | some .block32 => if s.phase32 = .absorb then d.map (·.append (lowInput32 s 4)) else d
    | some (.tail32 cnt) =>
      if s.phase32 = .absorb ∧ 1 ≤ cnt.toNat ∧ cnt.toNat ≤ 3 then d.map (·.append (lowInput32 s cnt.toNat)) else d
    | _ => d

/-- The same for U128. -/
def track128 (s : State) (e : HostEvent) (d : Option Delivered) : Option Delivered :=
  if e = .reset then none
  else match commandOf e with
    | some .init128 => some ⟨s.seed128, []⟩
    | some .block128 => if s.phase128 = .absorb then d.map (·.append (lowInput128 s 16)) else d
    | some (.tail128 cnt) =>
      if s.phase128 = .absorb ∧ 1 ≤ cnt.toNat then d.map (·.append (lowInput128 s cnt.toNat)) else d
    | _ => d

/-- U32 holds, in its phase, what the algorithm R128 holds after the delivered bytes: the accumulator in ABSORB and
TAILED, the hash in DONE; in IDLE nothing has been delivered. -/
def holds32 (d : Option Delivered) (s : State) : Prop :=
  match d with
  | none => s.phase32 = .idle
  | some d =>
    s.len32 = BitVec.ofNat 32 d.key.length ∧
    match s.phase32 with
    | .idle => False
    | .absorb => d.key.length % 4 = 0 ∧ s.h32 = absorb32 d.key d.seed (d.key.length / 4)
    | .tailed => s.h32 = foldKeyTail32 d.key (absorb32 d.key d.seed (d.key.length / 4))
    | .done => s.h32 = hash32 d.key d.seed

/-- The same for U128 and the algorithm R159. -/
def holds128 (d : Option Delivered) (s : State) : Prop :=
  match d with
  | none => s.phase128 = .idle
  | some d =>
    s.len128 = BitVec.ofNat 64 d.key.length ∧
    match s.phase128 with
    | .idle => False
    | .absorb => d.key.length % 16 = 0 ∧ (s.h1, s.h2) = absorb128 d.key d.seed (d.key.length / 16)
    | .tailed => (s.h1, s.h2) = foldKeyTail128 d.key (absorb128 d.key d.seed (d.key.length / 16))
    | .done => (s.h1, s.h2) = hash128 d.key d.seed

/-- What `k` steps from `s` deliver to U32, given what had been delivered before. -/
def delivered32 : Nat → State → Option Delivered → Option Delivered
  | 0, _, d => d
  | k + 1, s, d =>
    match s.pending, step s with
    | e :: _, .next t => delivered32 k t (track32 s e d)
    | _, _ => d

/-- What `k` steps from `s` deliver to U128, given what had been delivered before. -/
def delivered128 : Nat → State → Option Delivered → Option Delivered
  | 0, _, d => d
  | k + 1, s, d =>
    match s.pending, step s with
    | e :: _, .next t => delivered128 k t (track128 s e d)
    | _, _ => d

end Sys2Proof.Safety
end

