-- ==== Sys2Proof/Certificates/Slice0/Obligations.lean ====
section
/-! DEFINITION. The statements for the provers, from the numbered rules of spec/. The arithmetic of a rule is written
out here in terms of Lean's own bit vectors (`rotateLeft`, `toNat`, `%`), not through the model's functions, wherever
the rule gives a formula. `stepOf e s` is the step that the event `e` takes on the block `s`; `raised c s` is `s` after
an error of code `c` (10_state.md R38); `answered v b s` is `s` with the answer `(v, b)` on the bus (20_memory.md R52). -/

open Sys2Proof Sys2Proof.Machine Sys2Proof.Safety

/-! ### Encoding -/

/-- Every command, at every value of its operand field, is what its encoded word decodes to (R82, R91). -/
def Obligations.DecodeOfEncodeIsTheCommand : Prop := ∀ i : Instr, decode (encode i) = .ok i

/-- A word that decodes to a command is that command's encoded word: no two words mean one command, and no bit of the
word is ignored (R81, R83). -/
def Obligations.DecodedWordIsTheEncodedWord : Prop := ∀ (w : Word) (i : Instr), decode w = .ok i → w = encode i

/-- Which words the decoder rejects, and under which name: OP 0xD or 0xE first; then a nonzero RSV, a nonzero CNT
outside the tails, a nonzero ROT outside the rotations. These are the words that fit no mask of spec/opcode_table.json.
That the decoder rejects these and no others is the model's choice (DEDUCED, log entry 6), no rule of the spec: R89 has
further illegal encodings (TAIL32 with CNT 0 or >= 4, TAIL128 with CNT 0, ROTL32 with ROT 0 or >= 32, ROTL64 with ROT 0),
which decode here and are rejected, with the same error code, when the command is performed. -/
def Obligations.DecoderRejectsWordsOutsideTheTableMasks : Prop := ∀ w : Word,
  let op := w.toNat % 16
  let cnt := w.toNat / 16 % 16
  let rot := w.toNat / 256 % 64
  let rsv := w.toNat / 16384
  (decode w = .error .illegalOp ↔ op = 13 ∨ op = 14) ∧
  (decode w = .error .badField ↔ op ≠ 13 ∧ op ≠ 14 ∧
    (rsv ≠ 0 ∨ (cnt ≠ 0 ∧ op ≠ 3 ∧ op ≠ 7) ∨ (rot ≠ 0 ∧ op ≠ 9 ∧ op ≠ 10)))

/-- A few command words written out from the table of R82, one or more of each unit, decode to their commands. -/
def Obligations.WrittenOutWordsDecode : Prop :=
  decode 0b00000000000000000000000000000000#32 = .ok .nop ∧
  decode 0b00000000000000000000000000000001#32 = .ok .init32 ∧
  decode 0b00000000000000000000000000110011#32 = .ok (.tail32 3) ∧
  decode 0b00000000000000000000000011010111#32 = .ok (.tail128 13) ∧
  decode 0b00000000000000000000100000001001#32 = .ok (.rotl32 8) ∧
  decode 0b00000000000000000010000000001010#32 = .ok (.rotl64 32) ∧
  decode 0b00000000000000000000000000001111#32 = .ok .clrerr ∧
  decode 0b00000000000000000000000000001101#32 = .error .illegalOp ∧
  decode 0b00000000000000000100000000000000#32 = .error .badField

/-! ### Steps -/

/-- A step runs the decoded command: with a 32-bit write of `w` to CMD next, and `w` decoding to `i`, the step is
`exec i` on the state with that write taken off, and the answer `(0, 0)` (R23, R80, R52). -/
def Obligations.StepRunsTheDecodedCommand : Prop := ∀ (s : State) (w : Word) (i : Instr) (rest : List HostEvent),
  s.pending = .write 0x04 .four w :: rest → decode w = .ok i →
  ∃ t, exec i { s with pending := rest } = .next t ∧ t.pending = rest ∧ step s = .next { t with answer := some ⟨0, false⟩ }

/-- `Command(w)` whole (R81), with `FieldsOK` of R83, the legal phases of R82 and the priority of R205: the first
failing check is raised and nothing else happens; if none fails the command is performed and raises nothing. -/
def Obligations.CommandWriteMakesTheChecksInOrder : Prop := ∀ (s : State) (w : Word),
  let op := w.toNat % 16
  let cnt := w.toNat / 16 % 16
  let rot := w.toNat / 256 % 64
  let rsv := w.toNat / 16384
  let fieldsOk : Prop :=
    (op = 3 ∧ 1 ≤ cnt ∧ cnt ≤ 3 ∧ rot = 0) ∨ (op = 7 ∧ 1 ≤ cnt ∧ cnt ≤ 15 ∧ rot = 0) ∨
    (op = 9 ∧ cnt = 0 ∧ 1 ≤ rot ∧ rot ≤ 31) ∨ (op = 10 ∧ cnt = 0 ∧ 1 ≤ rot ∧ rot ≤ 63) ∨
    (op ≠ 3 ∧ op ≠ 7 ∧ op ≠ 9 ∧ op ≠ 10 ∧ cnt = 0 ∧ rot = 0)
  let phaseOk : Prop :=
    (op = 2 ∨ op = 3 → s.phase32 = .absorb) ∧ (op = 4 → s.phase32 = .absorb ∨ s.phase32 = .tailed) ∧
    (op = 6 ∨ op = 7 → s.phase128 = .absorb) ∧ (op = 8 → s.phase128 = .absorb ∨ s.phase128 = .tailed)
  let after := stepOf (.write 0x04 .four w) s
  (op = 13 ∨ op = 14 → after = .next (answered 0 false (raised 1 s))) ∧
  (op ≠ 13 ∧ op ≠ 14 ∧ (rsv ≠ 0 ∨ ¬ fieldsOk) → after = .next (answered 0 false (raised 2 s))) ∧
  (op ≠ 13 ∧ op ≠ 14 ∧ rsv = 0 ∧ fieldsOk ∧ ¬ phaseOk → after = .next (answered 0 false (raised 3 s))) ∧
  (op ≠ 13 ∧ op ≠ 14 ∧ rsv = 0 ∧ fieldsOk ∧ phaseOk →
    ∃ i t, decode w = .ok i ∧ i.wellFormed = true ∧ exec i s = .next t ∧ after = .next (answered 0 false t) ∧
      (op ≠ 15 → t.err = s.err ∧ t.errCode = s.errCode))

/-- In every state every access, and the reset event, has a step, and the step takes that one event off (R243, R20,
R58). -/
def Obligations.EveryPendingEventHasAStep : Prop := ∀ (s : State) (e : HostEvent) (rest : List HostEvent),
  s.pending = e :: rest → ∃ t, step s = .next t ∧ t.pending = rest

/-- "The block never steps on its own" (R20): with nothing pending it has no step. The fault that says so is the
model's own form of it (log entry 1). -/
def Obligations.NoStepWithoutAnEvent : Prop := ∀ s : State, s.pending = [] → step s = .fault .noHostAccess

/-! ### The commands of no unit -/

/-- NOP (R185): every register unchanged, ERR too; BAD_FIELD if CNT, ROT or RSV is not 0. -/
def Obligations.NopLeavesEveryRegister : Prop := ∀ s : State,
  exec .nop s = .next s ∧ decode 0x00000000 = .ok .nop ∧
  ∀ w : Word, w.toNat % 16 = 0 → w ≠ 0x00000000 →
    stepOf (.write 0x04 .four w) s = .next (answered 0 false (raised 2 s))

/-- CLRERR (R186): ERR and ERRCODE are 0 after it, every other register is unchanged; BAD_FIELD, with ERR not
cleared, if CNT, ROT or RSV is not 0. -/
def Obligations.ClrerrClearsTheErrorAlone : Prop := ∀ s : State,
  exec .clrerr s = .next { s with err := false, errCode := 0 } ∧ decode 0x0000000F = .ok .clrerr ∧
  ∀ w : Word, w.toNat % 16 = 15 → w ≠ 0x0000000F →
    stepOf (.write 0x04 .four w) s = .next (answered 0 false (raised 2 s))

/-! ### The commands of U32 -/

/-- INIT32 (R124): H32 is SEED32, LEN32 is 0, PHASE32 is ABSORB, in every phase; nothing else changes. -/
def Obligations.Init32LoadsTheSeed : Prop := ∀ s : State,
  exec .init32 s = .next { s with h32 := s.seed32, len32 := 0, phase32 := .absorb } ∧
  decode 0x00000001 = .ok .init32 ∧
  ∀ w : Word, w.toNat % 16 = 1 → w ≠ 0x00000001 →
    stepOf (.write 0x04 .four w) s = .next (answered 0 false (raised 2 s))

/-- BLOCK32 (R125) with the block step and the key-word mix written out (R120, R121, R122); SEQUENCE outside
ABSORB. -/
def Obligations.Block32AbsorbsTheBlock : Prop := ∀ s : State,
  (s.phase32 = .absorb →
    exec .block32 s = .next { s with
      h32 := (s.h32 ^^^ ((s.din32 * 0xcc9e2d51).rotateLeft 15 * 0x1b873593)).rotateLeft 13 * 5 + 0xe6546b64
      len32 := s.len32 + 4 }) ∧
  (s.phase32 ≠ .absorb → exec .block32 s = .next (raised 3 s)) ∧
  decode 0x00000002 = .ok .block32 ∧
  ∀ w : Word, w.toNat % 16 = 2 → w ≠ 0x00000002 →
    stepOf (.write 0x04 .four w) s = .next (answered 0 false (raised 2 s))

/-- TAIL32 (R126): the low CNT bytes of DIN32, mixed (R121), go into H32; LEN32 grows by CNT; PHASE32 is TAILED. SEQUENCE
outside ABSORB; BAD_FIELD, before SEQUENCE, for CNT 0 or above 3 and for a nonzero ROT or RSV. -/
def Obligations.Tail32FoldsTheLowBytes : Prop := ∀ (s : State) (cnt : BitVec 4),
  (1 ≤ cnt.toNat ∧ cnt.toNat ≤ 3 → s.phase32 = .absorb →
    exec (.tail32 cnt) s = .next { s with
      h32 := s.h32 ^^^
        ((BitVec.ofNat 32 (s.din32.toNat % 2 ^ (8 * cnt.toNat)) * 0xcc9e2d51).rotateLeft 15 * 0x1b873593)
      len32 := s.len32 + BitVec.ofNat 32 cnt.toNat
      phase32 := .tailed }) ∧
  (1 ≤ cnt.toNat ∧ cnt.toNat ≤ 3 → s.phase32 ≠ .absorb → exec (.tail32 cnt) s = .next (raised 3 s)) ∧
  (cnt.toNat = 0 ∨ 4 ≤ cnt.toNat → exec (.tail32 cnt) s = .next (raised 2 s)) ∧
  decode (BitVec.ofNat 32 (0x3 + 16 * cnt.toNat)) = .ok (.tail32 cnt) ∧
  ∀ w : Word, w.toNat % 16 = 3 → w.toNat / 256 ≠ 0 →
    stepOf (.write 0x04 .four w) s = .next (answered 0 false (raised 2 s))

/-- FINAL32 (R127) with fmix32 written out (R102): H32 is fmix32 of H32 ^ LEN32, PHASE32 is DONE, LEN32 stays;
SEQUENCE in IDLE and DONE. -/
def Obligations.Final32GivesTheAvalanche : Prop := ∀ s : State,
  (s.phase32 = .absorb ∨ s.phase32 = .tailed →
    ∃ a b c d e : Word,
      a = (s.h32 ^^^ s.len32) ^^^ ((s.h32 ^^^ s.len32) >>> 16) ∧ b = a * 0x85ebca6b ∧ c = b ^^^ (b >>> 13) ∧
      d = c * 0xc2b2ae35 ∧ e = d ^^^ (d >>> 16) ∧
      exec .final32 s = .next { s with h32 := e, phase32 := .done }) ∧
  (s.phase32 = .idle ∨ s.phase32 = .done → exec .final32 s = .next (raised 3 s)) ∧
  decode 0x00000004 = .ok .final32 ∧
  ∀ w : Word, w.toNat % 16 = 4 → w ≠ 0x00000004 →
    stepOf (.write 0x04 .four w) s = .next (answered 0 false (raised 2 s))

/-! ### The commands of U128 -/

/-- INIT128 (R155): both lanes are SEED128 zero-extended (R85), LEN128 is 0, PHASE128 is ABSORB, in every phase. -/
def Obligations.Init128LoadsTheWidenedSeed : Prop := ∀ s : State,
  exec .init128 s = .next { s with
    h1 := BitVec.ofNat 64 s.seed128.toNat, h2 := BitVec.ofNat 64 s.seed128.toNat, len128 := 0, phase128 := .absorb } ∧
  decode 0x00000005 = .ok .init128 ∧
  ∀ w : Word, w.toNat % 16 = 5 → w ≠ 0x00000005 →
    stepOf (.write 0x04 .four w) s = .next (answered 0 false (raised 2 s))

/-- BLOCK128 (R156) with the lane mixes and the block step written out (R150, R151, R152): lane 1 reads the old H2,
lane 2 the new H1; SEQUENCE outside ABSORB. -/
def Obligations.Block128AbsorbsTheBlock : Prop := ∀ s : State,
  (s.phase128 = .absorb →
    ∃ k1 k2 a b : DWord,
      k1 = BitVec.ofNat 64 (s.din128_0.toNat + 2 ^ 32 * s.din128_1.toNat) ∧
      k2 = BitVec.ofNat 64 (s.din128_2.toNat + 2 ^ 32 * s.din128_3.toNat) ∧
      a = ((s.h1 ^^^ ((k1 * 0x87c37b91114253d5).rotateLeft 31 * 0x4cf5ad432745937f)).rotateLeft 27 + s.h2) * 5
        + 0x52dce729 ∧
      b = ((s.h2 ^^^ ((k2 * 0x4cf5ad432745937f).rotateLeft 33 * 0x87c37b91114253d5)).rotateLeft 31 + a) * 5
        + 0x38495ab5 ∧
      exec .block128 s = .next { s with h1 := a, h2 := b, len128 := s.len128 + 16 }) ∧
  (s.phase128 ≠ .absorb → exec .block128 s = .next (raised 3 s)) ∧
  decode 0x00000006 = .ok .block128 ∧
  ∀ w : Word, w.toNat % 16 = 6 → w ≠ 0x00000006 →
    stepOf (.write 0x04 .four w) s = .next (answered 0 false (raised 2 s))

/-- TAIL128 (R157): the low CNT bytes of DIN128_0..3 go, mixed (R151), into the lanes, lane 2 only if CNT > 8; LEN128
grows by CNT; PHASE128 is TAILED. SEQUENCE outside ABSORB; BAD_FIELD, before SEQUENCE, for CNT 0 and for a nonzero ROT
or RSV. -/
def Obligations.Tail128FoldsTheLowBytes : Prop := ∀ (s : State) (cnt : BitVec 4),
  (1 ≤ cnt.toNat → s.phase128 = .absorb →
    ∃ k1 k2 a b : DWord,
      k1 = BitVec.ofNat 64 ((s.din128_0.toNat + 2 ^ 32 * s.din128_1.toNat) % 2 ^ (8 * min cnt.toNat 8)) ∧
      k2 = BitVec.ofNat 64 ((s.din128_2.toNat + 2 ^ 32 * s.din128_3.toNat) % 2 ^ (8 * (cnt.toNat - 8))) ∧
      a = s.h1 ^^^ ((k1 * 0x87c37b91114253d5).rotateLeft 31 * 0x4cf5ad432745937f) ∧
      b = (if 8 < cnt.toNat then
        s.h2 ^^^ ((k2 * 0x4cf5ad432745937f).rotateLeft 33 * 0x87c37b91114253d5) else s.h2) ∧
      exec (.tail128 cnt) s = .next { s with
        h1 := a, h2 := b, len128 := s.len128 + BitVec.ofNat 64 cnt.toNat, phase128 := .tailed }) ∧
  (1 ≤ cnt.toNat → s.phase128 ≠ .absorb → exec (.tail128 cnt) s = .next (raised 3 s)) ∧
  (cnt.toNat = 0 → exec (.tail128 cnt) s = .next (raised 2 s)) ∧
  decode (BitVec.ofNat 32 (0x7 + 16 * cnt.toNat)) = .ok (.tail128 cnt) ∧
  ∀ w : Word, w.toNat % 16 = 7 → w.toNat / 256 ≠ 0 →
    stepOf (.write 0x04 .four w) s = .next (answered 0 false (raised 2 s))

/-- FINAL128 (R158) with fmix64 written out (R103) as the function `mix`: the two rounds of lane additions around the
avalanche, PHASE128 is DONE, LEN128 stays; SEQUENCE in IDLE and DONE. -/
def Obligations.Final128GivesTheAvalanche : Prop := ∀ s : State,
  (∀ mix : DWord → DWord,
    (∀ h : DWord, ∃ a b c d : DWord, a = h ^^^ (h >>> 33) ∧ b = a * 0xff51afd7ed558ccd ∧ c = b ^^^ (b >>> 33) ∧
      d = c * 0xc4ceb9fe1a85ec53 ∧ mix h = d ^^^ (d >>> 33)) →
    s.phase128 = .absorb ∨ s.phase128 = .tailed →
    ∃ a b c d e f : DWord,
      a = (s.h1 ^^^ s.len128) + (s.h2 ^^^ s.len128) ∧ b = (s.h2 ^^^ s.len128) + a ∧ c = mix a ∧ d = mix b ∧
      e = c + d ∧ f = d + e ∧
      exec .final128 s = .next { s with h1 := e, h2 := f, phase128 := .done }) ∧
  (s.phase128 = .idle ∨ s.phase128 = .done → exec .final128 s = .next (raised 3 s)) ∧
  decode 0x00000008 = .ok .final128 ∧
  ∀ w : Word, w.toNat % 16 = 8 → w ≠ 0x00000008 →
    stepOf (.write 0x04 .four w) s = .next (answered 0 false (raised 2 s))

/-! ### The commands of P -/

/-- ROTL32 (R106): PY is the zero-extended left rotation of PX[31:0] by ROT in 1..31; BAD_FIELD, PY unchanged, for any
other ROT, and for a nonzero CNT or RSV. -/
def Obligations.Rotl32RotatesTheLowHalf : Prop := ∀ (s : State) (rot : BitVec 6),
  (1 ≤ rot.toNat ∧ rot.toNat ≤ 31 →
    exec (.rotl32 rot) s = .next { s with py := ((s.px.setWidth 32).rotateLeft rot.toNat).setWidth 64 }) ∧
  (rot.toNat = 0 ∨ 32 ≤ rot.toNat → exec (.rotl32 rot) s = .next (raised 2 s)) ∧
  decode (BitVec.ofNat 32 (0x9 + 256 * rot.toNat)) = .ok (.rotl32 rot) ∧
  ∀ w : Word, w.toNat % 16 = 9 → (w.toNat / 16 % 16 ≠ 0 ∨ w.toNat / 16384 ≠ 0) →
    stepOf (.write 0x04 .four w) s = .next (answered 0 false (raised 2 s))

/-- ROTL64 (R107): PY is the left rotation of PX by ROT in 1..63; BAD_FIELD, PY unchanged, for ROT 0, and for a nonzero
CNT or RSV. -/
def Obligations.Rotl64RotatesTheWhole : Prop := ∀ (s : State) (rot : BitVec 6),
  (1 ≤ rot.toNat → exec (.rotl64 rot) s = .next { s with py := s.px.rotateLeft rot.toNat }) ∧
  (rot.toNat = 0 → exec (.rotl64 rot) s = .next (raised 2 s)) ∧
  decode (BitVec.ofNat 32 (0xA + 256 * rot.toNat)) = .ok (.rotl64 rot) ∧
  ∀ w : Word, w.toNat % 16 = 10 → (w.toNat / 16 % 16 ≠ 0 ∨ w.toNat / 16384 ≠ 0) →
    stepOf (.write 0x04 .four w) s = .next (answered 0 false (raised 2 s))

/-- FMIX32 (R108) with fmix32 written out (R102): PY is the zero-extended avalanche of PX[31:0]. -/
def Obligations.Fmix32MixesTheLowHalf : Prop := ∀ s : State,
  (∃ h a b c d : Word,
    h = s.px.setWidth 32 ∧ a = h ^^^ (h >>> 16) ∧ b = a * 0x85ebca6b ∧ c = b ^^^ (b >>> 13) ∧ d = c * 0xc2b2ae35 ∧
    exec .fmix32 s = .next { s with py := (d ^^^ (d >>> 16)).setWidth 64 }) ∧
  decode 0x0000000B = .ok .fmix32 ∧
  ∀ w : Word, w.toNat % 16 = 11 → w ≠ 0x0000000B →
    stepOf (.write 0x04 .four w) s = .next (answered 0 false (raised 2 s))

/-- FMIX64 (R109) with fmix64 written out (R103): PY is the avalanche of PX. -/
def Obligations.Fmix64MixesTheWhole : Prop := ∀ s : State,
  (∃ a b c d : DWord,
    a = s.px ^^^ (s.px >>> 33) ∧ b = a * 0xff51afd7ed558ccd ∧ c = b ^^^ (b >>> 33) ∧ d = c * 0xc4ceb9fe1a85ec53 ∧
    exec .fmix64 s = .next { s with py := d ^^^ (d >>> 33) }) ∧
  decode 0x0000000C = .ok .fmix64 ∧
  ∀ w : Word, w.toNat % 16 = 12 → w ≠ 0x0000000C →
    stepOf (.write 0x04 .four w) s = .next (answered 0 false (raised 2 s))

/-! ### The functions -/

/-- `rotl32(x, r)` is the formula of R100, and the value "whose bit `(i + r) mod 32` is bit i of x", for
`0 < r < 32`. -/
def Obligations.Rotl32MovesEveryBit : Prop := ∀ (x : Word) (r : Nat), 0 < r → r < 32 →
  rotl32 x r = BitVec.ofNat 32 (x.toNat * 2 ^ r) ||| BitVec.ofNat 32 (x.toNat / 2 ^ (32 - r)) ∧
  ∀ i, i < 32 → (rotl32 x r).getLsbD ((i + r) % 32) = x.getLsbD i

/-- `rotl64(x, r)` is the formula of R101, and the circular left rotation of x by r bits, for `0 < r < 64`. -/
def Obligations.Rotl64MovesEveryBit : Prop := ∀ (x : DWord) (r : Nat), 0 < r → r < 64 →
  rotl64 x r = BitVec.ofNat 64 (x.toNat * 2 ^ r) ||| BitVec.ofNat 64 (x.toNat / 2 ^ (64 - r)) ∧
  ∀ i, i < 64 → (rotl64 x r).getLsbD ((i + r) % 64) = x.getLsbD i

/-- The laws of R105: zero and all ones are fixed by the rotation, rotations add up (when `0 < a + b < 32`, which takes
in an amount of 0: log entry 7), zero is fixed by the avalanches, and both avalanches are bijections. -/
def Obligations.PrimitivesObeyTheirLaws : Prop :=
  fmix32 0 = 0 ∧ fmix64 0 = 0 ∧
  (∀ r, 0 < r → r < 32 → rotl32 0 r = 0 ∧ rotl32 0xFFFFFFFF r = 0xFFFFFFFF) ∧
  (∀ (x : Word) (a b : Nat), 0 < a + b → a + b < 32 → rotl32 (rotl32 x a) b = rotl32 x (a + b)) ∧
  Function.Bijective fmix32 ∧ Function.Bijective fmix64

/-- Input bytes at or above CNT are ignored "whatever they hold" (R86, R87): a tail on inputs that agree on the low
CNT bytes ends in states that differ in those inputs alone. -/
def Obligations.TailsIgnoreTheBytesAboveTheCount : Prop :=
  (∀ (s t : State) (cnt : BitVec 4) (d : Word),
    (∀ j, j < cnt.toNat → j < 4 → s.din32.toNat / 256 ^ j % 256 = d.toNat / 256 ^ j % 256) →
    exec (.tail32 cnt) s = .next t → exec (.tail32 cnt) { s with din32 := d } = .next { t with din32 := d }) ∧
  (∀ (s t u : State) (cnt : BitVec 4),
    u = { s with din128_0 := u.din128_0, din128_1 := u.din128_1, din128_2 := u.din128_2, din128_3 := u.din128_3 } →
    (∀ j, j < cnt.toNat → inputByte128 u j = inputByte128 s j) →
    exec (.tail128 cnt) s = .next t →
    exec (.tail128 cnt) u = .next { t with
      din128_0 := u.din128_0, din128_1 := u.din128_1, din128_2 := u.din128_2, din128_3 := u.din128_3 })

/-! ### Errors -/

/-- The SEQUENCE cases in full (R201): seen on a block with ERR = 0, a command whose fields are right raises SEQUENCE
exactly in these cases. -/
def Obligations.SequenceIsRaisedExactlyOutOfPhase : Prop := ∀ (i : Instr) (s : State),
  s.err = false → i.wellFormed = true →
  ((∃ t, exec i s = .next t ∧ t.err = true ∧ t.errCode = 3) ↔
    ((i = .block32 ∨ ∃ c, i = .tail32 c) ∧ (s.phase32 = .idle ∨ s.phase32 = .tailed ∨ s.phase32 = .done)) ∨
    (i = .final32 ∧ (s.phase32 = .idle ∨ s.phase32 = .done)) ∨
    ((i = .block128 ∨ ∃ c, i = .tail128 c) ∧ (s.phase128 = .idle ∨ s.phase128 = .tailed ∨ s.phase128 = .done)) ∨
    (i = .final128 ∧ (s.phase128 = .idle ∨ s.phase128 = .done)))

/-- The rule of R38 for ERR and ERRCODE: an error is recorded if ERR was 0 and otherwise changes neither ("the first
code is kept"); only CLRERR and reset set them to 0; nothing else changes them. -/
def Obligations.ErrorIsRecordedOnceUntilCleared : Prop := ∀ (e : HostEvent) (s t : State), stepOf e s = .next t →
  (∀ c, raises e s c → t.err = true ∧ t.errCode = if s.err then s.errCode else c) ∧
  (e = .reset ∨ commandOf e = some .clrerr → t.err = false ∧ t.errCode = 0) ∧
  (s.err = true → t.err = false → e = .reset ∨ commandOf e = some .clrerr) ∧
  (t.err ≠ s.err ∨ t.errCode ≠ s.errCode →
    (∃ c, raises e s c) ∨ e = .reset ∨ commandOf e = some .clrerr)

/-- An access or command that raises code E changes ERR and ERRCODE, by the rule of R38, and nothing else (R203,
R204); E is one of the four codes of R200. -/
def Obligations.ErrorsArePrecise : Prop := ∀ (e : HostEvent) (s : State) (c : BitVec 4), raises e s c →
  (c = 1 ∨ c = 2 ∨ c = 3 ∨ c = 4) ∧
  ∃ b, stepOf e s = .next (answered 0 b (raised c s)) ∧ (b = true ↔ c = 4)

/-- Errors do not block (R208): what an event does to every register but ERR and ERRCODE is the same whatever ERR and
ERRCODE hold. -/
def Obligations.ErrorsDoNotBlock : Prop := ∀ (e : HostEvent) (s t : State) (b : Bool) (c : BitVec 4),
  stepOf e s = .next t →
  ∃ t', stepOf e { s with err := b, errCode := c } = .next t' ∧
    t' = { t with err := t'.err, errCode := t'.errCode, answer := t'.answer }

/-- ERRCODE is 0 while ERR = 0, not 0 while ERR = 1, and never a reserved code (R24, R200): every step keeps it. -/
def Obligations.ErrorFieldsStayConsistent : Prop := ∀ s t : State,
  errorFieldsOk s → step s = .next t → errorFieldsOk t

/-- The invariant of the error fields holds after reset (R40). -/
def Obligations.ErrorFieldsConsistentAtReset : Prop := errorFieldsOk State.reset

/-! ### The register window -/

/-- A legal read gives the register's value and changes no register (R51, R52, R59): the value at every mapped
offset. -/
def Obligations.ReadsGiveTheMappedValues : Prop := ∀ (s : State) (p : Offset × Word),
  p ∈ ([(0x00, 0x4D4D4833), (0x04, 0), (0x10, s.seed32), (0x14, s.din32), (0x18, s.h32), (0x1C, s.len32),
    (0x20, s.seed128), (0x30, s.din128_0), (0x34, s.din128_1), (0x38, s.din128_2), (0x3C, s.din128_3),
    (0x40, s.h1.setWidth 32), (0x44, (s.h1 >>> 32).setWidth 32), (0x48, s.h2.setWidth 32),
    (0x4C, (s.h2 >>> 32).setWidth 32), (0x50, s.len128.setWidth 32), (0x54, (s.len128 >>> 32).setWidth 32),
    (0x60, s.px.setWidth 32), (0x64, (s.px >>> 32).setWidth 32), (0x68, s.py.setWidth 32),
    (0x6C, (s.py >>> 32).setWidth 32)] : List (Offset × Word)) →
  stepOf (.read p.1 .four) s = .next (answered p.2 false s)

/-- The word that a read of STATUS gives: each field at its bits, the reserved bits 0; a write to it is a bus error
(R24). -/
def Obligations.StatusReadsItsFields : Prop := ∀ s : State, ∃ v : Word,
  stepOf (.read 0x08 .four) s = .next (answered v false s) ∧
  (v.toNat % 2 = if s.err then 1 else 0) ∧ v.toNat / 2 % 8 = 0 ∧ v.toNat / 16 % 16 = s.errCode.toNat ∧
  (v.toNat / 256 % 4 = match s.phase32 with | .idle => 0 | .absorb => 1 | .tailed => 2 | .done => 3) ∧
  (v.toNat / 1024 % 4 = match s.phase128 with | .idle => 0 | .absorb => 1 | .tailed => 2 | .done => 3) ∧
  v.toNat / 4096 = 0 ∧
  ∀ w : Word, stepOf (.write 0x08 .four w) s = .next (answered 0 true (raised 4 s))

/-- ID is the constant 0x4D4D4833 in every state, with its bytes 0x33, 0x48, 0x4D, 0x4D at offsets 0 to 3, and a write
to it is a bus error (R22). -/
def Obligations.IdIsAConstant : Prop := ∀ (s : State) (v : Word),
  stepOf (.read 0x00 .four) s = .next (answered 0x4D4D4833 false s) ∧
  windowByte s 0x00 = some 0x33 ∧ windowByte s 0x01 = some 0x48 ∧ windowByte s 0x02 = some 0x4D ∧
  windowByte s 0x03 = some 0x4D ∧
  stepOf (.write 0x00 .four v) s = .next (answered 0 true (raised 4 s))

/-- A write to a read-write register changes that register alone, to the word written (R52, R59). -/
def Obligations.StoresChangeTheirRegisterAlone : Prop := ∀ (s : State) (v : Word),
  stepOf (.write 0x10 .four v) s = .next (answered 0 false { s with seed32 := v }) ∧
  stepOf (.write 0x14 .four v) s = .next (answered 0 false { s with din32 := v }) ∧
  stepOf (.write 0x20 .four v) s = .next (answered 0 false { s with seed128 := v }) ∧
  stepOf (.write 0x30 .four v) s = .next (answered 0 false { s with din128_0 := v }) ∧
  stepOf (.write 0x34 .four v) s = .next (answered 0 false { s with din128_1 := v }) ∧
  stepOf (.write 0x38 .four v) s = .next (answered 0 false { s with din128_2 := v }) ∧
  stepOf (.write 0x3C .four v) s = .next (answered 0 false { s with din128_3 := v })

/-- PX (R36): PX_LO and PX_HI read its halves; a write to PX_LO changes only PX[31:0], one to PX_HI only PX[63:32];
no command changes it. -/
def Obligations.PxIsWrittenByHalves : Prop := ∀ (s : State) (v : Word),
  stepOf (.read 0x60 .four) s = .next (answered (BitVec.ofNat 32 s.px.toNat) false s) ∧
  stepOf (.read 0x64 .four) s = .next (answered (BitVec.ofNat 32 (s.px.toNat / 2 ^ 32)) false s) ∧
  stepOf (.write 0x60 .four v) s =
    .next (answered 0 false { s with px := BitVec.ofNat 64 (s.px.toNat / 2 ^ 32 * 2 ^ 32 + v.toNat) }) ∧
  stepOf (.write 0x64 .four v) s =
    .next (answered 0 false { s with px := BitVec.ofNat 64 (v.toNat * 2 ^ 32 + s.px.toNat % 2 ^ 32) }) ∧
  ∀ (i : Instr) (t : State), exec i s = .next t → t.px = s.px

/-- The bus errors, all of them (R207): the size is not 4, or the offset is not aligned, or the offset is reserved,
or the write is to a read-only register; then BUS is recorded, nothing else changes and the answer is `(0, 1)`. Any
other access is answered with `berr = 0`; a read of CMD is one and gives 0. -/
def Obligations.BusErrorsExactlyOnIllegalAccesses : Prop := ∀ (s : State) (off : Offset) (size : AccessSize) (v : Word),
  let o := off.toNat
  let reserved : Prop := o = 0x0C ∨ (0x24 ≤ o ∧ o ≤ 0x2C) ∨ (0x58 ≤ o ∧ o ≤ 0x5C) ∨ 0x70 ≤ o
  let readOnly : Prop := o = 0x00 ∨ o = 0x08 ∨ o = 0x18 ∨ o = 0x1C ∨ (0x40 ≤ o ∧ o ≤ 0x54) ∨ (0x68 ≤ o ∧ o ≤ 0x6C)
  let badRead : Prop := size ≠ .four ∨ o % 4 ≠ 0 ∨ reserved
  (badRead → stepOf (.read off size) s = .next (answered 0 true (raised 4 s))) ∧
  (¬ badRead → ∃ x, stepOf (.read off size) s = .next (answered x false s) ∧ (o = 0x04 → x = 0)) ∧
  (badRead ∨ readOnly → stepOf (.write off size v) s = .next (answered 0 true (raised 4 s))) ∧
  (¬ (badRead ∨ readOnly) → ∃ t, stepOf (.write off size v) s = .next (answered 0 false t))

/-- The window lies at BASE, a multiple of 256: its 256 addresses lead to their offsets and every other address to
none (R50, R60). -/
def Obligations.WindowIsAtBase : Prop :=
  Config.base % 256 = 0 ∧ (∀ off : Offset, windowOffset (busAddress off) = some off) ∧
  ∀ a : Nat, windowOffset a = none ↔ a < Config.base ∨ Config.base + 256 ≤ a

/-! ### Frames and independence -/

/-- The frame of the commands of U32 (R41): SEED32, DIN32, all of U128 and P are unchanged; BLOCK32 keeps the phase
and FINAL32 the length; and either ERR and ERRCODE are unchanged or all of U32 is. Every byte of the window outside
STATUS, H32 and LEN32 reads as before. -/
def Obligations.U32CommandsKeepTheirFrame : Prop := ∀ (i : Instr) (s t : State),
  (i = .init32 ∨ i = .block32 ∨ (∃ c, i = .tail32 c) ∨ i = .final32) → exec i s = .next t →
  t.seed32 = s.seed32 ∧ t.din32 = s.din32 ∧ viewU128 t = viewU128 s ∧ viewP t = viewP s ∧
  (i = .block32 → t.phase32 = s.phase32) ∧ (i = .final32 → t.len32 = s.len32) ∧
  ((t.err = s.err ∧ t.errCode = s.errCode) ∨ viewU32 t = viewU32 s) ∧
  t.pending = s.pending ∧ t.answer = s.answer ∧
  ∀ off : Offset, ¬ (0x08 ≤ off.toNat ∧ off.toNat < 0x0C) → ¬ (0x18 ≤ off.toNat ∧ off.toNat < 0x20) →
    windowByte t off = windowByte s off

/-- The frame of the commands of U128 (R41): SEED128, DIN128_0..3, all of U32 and P are unchanged; BLOCK128 keeps the
phase and FINAL128 the length; and either ERR and ERRCODE are unchanged or all of U128 is. Every byte of the window
outside STATUS, H1, H2 and LEN128 reads as before. -/
def Obligations.U128CommandsKeepTheirFrame : Prop := ∀ (i : Instr) (s t : State),
  (i = .init128 ∨ i = .block128 ∨ (∃ c, i = .tail128 c) ∨ i = .final128) → exec i s = .next t →
  t.seed128 = s.seed128 ∧ t.din128_0 = s.din128_0 ∧ t.din128_1 = s.din128_1 ∧ t.din128_2 = s.din128_2 ∧
  t.din128_3 = s.din128_3 ∧ viewU32 t = viewU32 s ∧ viewP t = viewP s ∧
  (i = .block128 → t.phase128 = s.phase128) ∧ (i = .final128 → t.len128 = s.len128) ∧
  ((t.err = s.err ∧ t.errCode = s.errCode) ∨ viewU128 t = viewU128 s) ∧
  t.pending = s.pending ∧ t.answer = s.answer ∧
  ∀ off : Offset, ¬ (0x08 ≤ off.toNat ∧ off.toNat < 0x0C) → ¬ (0x40 ≤ off.toNat ∧ off.toNat < 0x58) →
    windowByte t off = windowByte s off

/-- The frame of the commands of P, of NOP and of CLRERR (R41): U32, U128 and PX are unchanged; PY is unchanged but by
the four primitives, and by them when they raise; ERR and ERRCODE are unchanged but by CLRERR and by a rotation that
raises. Every byte of the window outside STATUS and PY reads as before. -/
def Obligations.PrimitiveAndControlCommandsKeepTheirFrame : Prop := ∀ (i : Instr) (s t : State),
  (i = .nop ∨ i = .clrerr ∨ (∃ r, i = .rotl32 r) ∨ (∃ r, i = .rotl64 r) ∨ i = .fmix32 ∨ i = .fmix64) →
  exec i s = .next t →
  viewU32 t = viewU32 s ∧ viewU128 t = viewU128 s ∧ t.px = s.px ∧
  (i = .nop ∨ i = .clrerr → t.py = s.py) ∧
  (i ≠ .clrerr → (t.err = s.err ∧ t.errCode = s.errCode) ∨ t.py = s.py) ∧
  (i = .nop ∨ i = .fmix32 ∨ i = .fmix64 → t.err = s.err ∧ t.errCode = s.errCode) ∧
  t.pending = s.pending ∧ t.answer = s.answer ∧
  ∀ off : Offset, ¬ (0x08 ≤ off.toNat ∧ off.toNat < 0x0C) → ¬ (0x68 ≤ off.toNat ∧ off.toNat < 0x70) →
    windowByte t off = windowByte s off

/-- "U32 commands never touch U128 or P state and vice versa" (R41), for every access and for what is read too: what
an event leaves in a unit depends on that unit's registers alone (R212). -/
def Obligations.UnitsAreIndependent : Prop := ∀ (e : HostEvent) (s s' t t' : State),
  stepOf e s = .next t → stepOf e s' = .next t' →
  (viewU32 s = viewU32 s' → viewU32 t = viewU32 t') ∧
  (viewU128 s = viewU128 s' → viewU128 t = viewU128 t') ∧
  (viewP s = viewP s' → viewP t = viewP t')

/-- Operand registers are sampled only by the commands that read them (R234): on any other event, another value in
one of them changes that register and the answer alone. -/
def Obligations.OperandsAreSampledOnlyByTheirCommands : Prop := ∀ (e : HostEvent) (s s' t t' : State),
  stepOf e s = .next t → stepOf e s' = .next t' →
  (s' = { s with seed32 := s'.seed32 } → commandOf e ≠ some .init32 →
    t' = { t with seed32 := t'.seed32, answer := t'.answer }) ∧
  (s' = { s with din32 := s'.din32 } → commandOf e ≠ some .block32 → (∀ c, commandOf e ≠ some (.tail32 c)) →
    t' = { t with din32 := t'.din32, answer := t'.answer }) ∧
  (s' = { s with seed128 := s'.seed128 } → commandOf e ≠ some .init128 →
    t' = { t with seed128 := t'.seed128, answer := t'.answer }) ∧
  (s' = { s with din128_0 := s'.din128_0, din128_1 := s'.din128_1, din128_2 := s'.din128_2, din128_3 := s'.din128_3 } →
    commandOf e ≠ some .block128 → (∀ c, commandOf e ≠ some (.tail128 c)) →
    t' = { t with din128_0 := t'.din128_0, din128_1 := t'.din128_1, din128_2 := t'.din128_2,
                  din128_3 := t'.din128_3, answer := t'.answer }) ∧
  (s' = { s with px := s'.px } → (∀ i, commandOf e = some i → isPCommand i = false) →
    t' = { t with px := t'.px, answer := t'.answer })

/-- The accumulators, counters and PY are written by their own commands, and by reset, only (R27, R28, R33, R34,
R37); after a 32-bit primitive that did not raise, PY[63:32] is 0 (R37). -/
def Obligations.ResultsChangeOnlyByTheirCommands : Prop := ∀ (e : HostEvent) (s t : State), stepOf e s = .next t →
  (t.h32 ≠ s.h32 ∨ t.len32 ≠ s.len32 → e = .reset ∨ ∃ i, commandOf e = some i ∧ isU32Command i = true) ∧
  (t.h1 ≠ s.h1 ∨ t.h2 ≠ s.h2 ∨ t.len128 ≠ s.len128 → e = .reset ∨ ∃ i, commandOf e = some i ∧ isU128Command i = true) ∧
  (t.py ≠ s.py → e = .reset ∨ ∃ i, commandOf e = some i ∧ isPCommand i = true) ∧
  (commandOf e = some .fmix32 → t.py.toNat / 2 ^ 32 = 0) ∧
  (∀ r, commandOf e = some (.rotl32 r) → 1 ≤ r.toNat → r.toNat ≤ 31 → t.py.toNat / 2 ^ 32 = 0)

/-- What the phase machine lets happen to PHASE32 and PHASE128 (R30, R236), on any event: no tail or end before INIT,
one tail, one FINAL for each INIT. -/
def Obligations.PhasesMoveOnlyAsTheTableHasIt : Prop := ∀ (e : HostEvent) (s t : State), stepOf e s = .next t →
  (t.phase32 = s.phase32 ∨ (e = .reset ∧ t.phase32 = .idle) ∨
    (commandOf e = some .init32 ∧ t.phase32 = .absorb) ∨
    ((∃ c, commandOf e = some (.tail32 c)) ∧ s.phase32 = .absorb ∧ t.phase32 = .tailed) ∨
    (commandOf e = some .final32 ∧ (s.phase32 = .absorb ∨ s.phase32 = .tailed) ∧ t.phase32 = .done)) ∧
  (t.phase128 = s.phase128 ∨ (e = .reset ∧ t.phase128 = .idle) ∨
    (commandOf e = some .init128 ∧ t.phase128 = .absorb) ∨
    ((∃ c, commandOf e = some (.tail128 c)) ∧ s.phase128 = .absorb ∧ t.phase128 = .tailed) ∨
    (commandOf e = some .final128 ∧ (s.phase128 = .absorb ∨ s.phase128 = .tailed) ∧ t.phase128 = .done))

/-! ### Reset -/

/-- The reset values (R40), register by register. -/
def Obligations.ResetStateHasTheSpecsValues : Prop :=
  State.reset.err = false ∧ State.reset.errCode = 0 ∧ State.reset.phase32 = .idle ∧ State.reset.phase128 = .idle ∧
  State.reset.seed32 = 0 ∧ State.reset.din32 = 0 ∧ State.reset.h32 = 0 ∧ State.reset.len32 = 0 ∧
  State.reset.seed128 = 0 ∧ State.reset.din128_0 = 0 ∧ State.reset.din128_1 = 0 ∧ State.reset.din128_2 = 0 ∧
  State.reset.din128_3 = 0 ∧ State.reset.h1 = 0 ∧ State.reset.h2 = 0 ∧ State.reset.len128 = 0 ∧
  State.reset.px = 0 ∧ State.reset.py = 0 ∧
  stepOf (.read 0x00 .four) State.reset = .next (answered 0x4D4D4833 false State.reset) ∧
  stepOf (.read 0x04 .four) State.reset = .next (answered 0 false State.reset)

/-- The reset event, from every state, sets every register to its reset value in one step (R230); a following BLOCK,
TAIL or FINAL raises SEQUENCE (R232). The list of pending events and the answer are the model's own (log entries 1
and 2). -/
def Obligations.ResetEventSetsEveryRegister : Prop := ∀ s t : State, t = { State.reset with pending := s.pending } →
  stepOf .reset s = .next t ∧
  exec .block32 t = .next (raised 3 t) ∧ exec .final32 t = .next (raised 3 t) ∧
  exec .block128 t = .next (raised 3 t) ∧ exec .final128 t = .next (raised 3 t) ∧
  (∀ c : BitVec 4, 1 ≤ c.toNat → exec (.tail128 c) t = .next (raised 3 t)) ∧
  (∀ c : BitVec 4, 1 ≤ c.toNat → c.toNat ≤ 3 → exec (.tail32 c) t = .next (raised 3 t))

/-! ### Digests -/

/-- The 32-bit digest (R180): it exists exactly in phase DONE, is the four bytes of H32, least significant first, and
those are the bytes at offsets 0x018 to 0x01B of the window. -/
def Obligations.Digest32IsTheBytesOfH32 : Prop := ∀ s : State,
  (s.phase32 ≠ .done → digest32 s = none) ∧
  (s.phase32 = .done → ∃ d, digest32 s = some d ∧ d.asBytes.length = 4 ∧ ∀ i, i < 4 →
    d.asBytes[i]? = some (BitVec.ofNat 8 (s.h32.toNat / 256 ^ i)) ∧
    windowByte s (BitVec.ofNat 8 (0x18 + i)) = d.asBytes[i]?)

/-- The 128-bit digest (R181): it exists exactly in phase DONE, is the bytes of H1 then those of H2, least significant
first, and those are the bytes at offsets 0x040 to 0x04F of the window. -/
def Obligations.Digest128IsTheBytesOfH1ThenH2 : Prop := ∀ s : State,
  (s.phase128 ≠ .done → digest128 s = none) ∧
  (s.phase128 = .done → ∃ d, digest128 s = some d ∧ d.asBytes.length = 16 ∧
    (∀ i, i < 8 → d.asBytes[i]? = some (BitVec.ofNat 8 (s.h1.toNat / 256 ^ i)) ∧
      d.asBytes[8 + i]? = some (BitVec.ofNat 8 (s.h2.toNat / 256 ^ i))) ∧
    ∀ i, i < 16 → windowByte s (BitVec.ofNat 8 (0x40 + i)) = d.asBytes[i]?)

/-- The word views of a digest (R182, R183): the registers themselves, and the 4-byte digest zero-padded above in its
64-bit view. -/
def Obligations.DigestViewsAreTheRegisters : Prop := ∀ (s : State) (d : Digest),
  (digest32 s = some d → d.asU32Words = [s.h32] ∧ d.asU64Words = [s.h32.setWidth 64]) ∧
  (digest128 s = some d →
    d.asU32Words = [s.h1.setWidth 32, (s.h1 >>> 32).setWidth 32, s.h2.setWidth 32, (s.h2 >>> 32).setWidth 32] ∧
    d.asU64Words = [s.h1, s.h2])

/-! ### The whole hash -/

/-- The canonical sequence for `hash32 key, seed` (R130), from any state, for every key and seed: it raises no error
and ends with PHASE32 = DONE, LEN32 = n modulo 2^32, H32 = Hash32(key, seed) and that word read back; nothing of U128,
P, ERR or ERRCODE has changed. -/
def Obligations.CanonicalSequence32ComputesHash32 : Prop :=
  ∀ (key : List Byte) (seed : Word) (s : State) (rest : List HostEvent), ∃ d : Word,
    runEvents (canonical32 key seed) rest s = .next { s with
      seed32 := seed, din32 := d, h32 := hash32 key seed, len32 := BitVec.ofNat 32 key.length, phase32 := .done,
      pending := rest, answer := some ⟨hash32 key seed, false⟩ }

/-- The same with any other accesses between (R130: "if no other access to SEED32, DIN32 or a U32 command
intervenes"), of any host (R62), legal or not: if the events that touch U32 are those of the canonical sequence, in
their order, U32 ends with the hash. -/
def Obligations.InterleavedSequence32ComputesHash32 : Prop :=
  ∀ (key : List Byte) (seed : Word) (evs : List HostEvent) (s : State) (rest : List HostEvent),
    evs.filter touchesU32 = hashAccesses32 key seed →
    ∃ t, runEvents evs rest s = .next t ∧ t.phase32 = .done ∧ t.len32 = BitVec.ofNat 32 key.length ∧
      t.h32 = hash32 key seed ∧ t.pending = rest

/-- The canonical sequence for `hash128 key, seed` (R160), from any state, for every key and seed: it raises no error
and ends with PHASE128 = DONE, LEN128 = n modulo 2^64, (H1, H2) = Hash128(key, seed), and its four reads give the four
words of the lanes; nothing of U32, P, ERR or ERRCODE has changed. -/
def Obligations.CanonicalSequence128ComputesHash128 : Prop :=
  ∀ (key : List Byte) (seed : Word) (s : State) (rest : List HostEvent) (j : Fin 4),
    let h := hash128 key seed
    let reads := [rd .h1_lo, rd .h1_hi, rd .h2_lo, rd .h2_hi]
    let words := [h.1.setWidth 32, (h.1 >>> 32).setWidth 32, h.2.setWidth 32, (h.2 >>> 32).setWidth 32]
    canonical128 key seed = hashAccesses128 key seed ++ reads ∧
    ∃ d0 d1 d2 d3 : Word,
      runEvents (hashAccesses128 key seed ++ reads.take (j.val + 1)) rest s = .next { s with
        seed128 := seed, din128_0 := d0, din128_1 := d1, din128_2 := d2, din128_3 := d3, h1 := h.1, h2 := h.2,
        len128 := BitVec.ofNat 64 key.length, phase128 := .done, pending := rest,
        answer := some ⟨words.getD j.val 0, false⟩ }

/-- The same with any other accesses between (R160, R62). -/
def Obligations.InterleavedSequence128ComputesHash128 : Prop :=
  ∀ (key : List Byte) (seed : Word) (evs : List HostEvent) (s : State) (rest : List HostEvent),
    evs.filter touchesU128 = hashAccesses128 key seed →
    ∃ t, runEvents evs rest s = .next t ∧ t.phase128 = .done ∧ t.len128 = BitVec.ofNat 64 key.length ∧
      (t.h1, t.h2) = hash128 key seed ∧ t.pending = rest

/-- What U32 holds is what the algorithm R128 holds after the key bytes delivered since the last INIT32: every step
keeps it, whatever the event (R131). -/
def Obligations.U32HoldsTheHashOfWhatWasDelivered : Prop :=
  ∀ (d : Option Delivered) (e : HostEvent) (rest : List HostEvent) (s t : State),
    s.pending = e :: rest → holds32 d s → step s = .next t → holds32 (track32 s e d) t

/-- What U128 holds is what the algorithm R159 holds after the key bytes delivered since the last INIT128: every step
keeps it, whatever the event (R161). -/
def Obligations.U128HoldsTheHashOfWhatWasDelivered : Prop :=
  ∀ (d : Option Delivered) (e : HostEvent) (rest : List HostEvent) (s t : State),
    s.pending = e :: rest → holds128 d s → step s = .next t → holds128 (track128 s e d) t

/-- After reset nothing has been delivered, and both units hold that (R40). -/
def Obligations.NothingDeliveredAtReset : Prop := holds32 none State.reset ∧ holds128 none State.reset

/-- Every digest is a hash: any run, of any accesses, that starts with both units in IDLE and ends with a unit in
DONE leaves there the hash of the key bytes delivered to that unit, under the seed of its INIT (R131, R161). -/
def Obligations.EveryDigestIsTheHashOfTheDeliveredKey : Prop := ∀ (k : Nat) (s t : State),
  s.phase32 = .idle → s.phase128 = .idle → Host.Core.run Sys2Proof.core k s = .next t →
  (t.phase32 = .done → ∃ d, delivered32 k s none = some d ∧ t.h32 = hash32 d.key d.seed) ∧
  (t.phase128 = .done → ∃ d, delivered128 k s none = some d ∧ (t.h1, t.h2) = hash128 d.key d.seed)

/-- The number of accesses of the canonical sequences (R242). -/
def Obligations.CanonicalSequencesHaveTheStatedLengths : Prop := ∀ (key : List Byte) (seed : Word),
  (canonical32 key seed).length
    = 2 + 2 * (key.length / 4) + 2 * (if key.length % 4 > 0 then 1 else 0) + 2 ∧
  (canonical128 key seed).length
    = 2 + 5 * (key.length / 16) + 5 * (if key.length % 16 > 0 then 1 else 0) + 1 + 4
end

