-- ==== Sys2Proof/Laws/Bits.lean ====
section
/-! SUPPORT. Bytes, words and halves: what assembling and taking apart give back. -/

namespace Sys2Proof.Laws

open Sys2Proof Sys2Proof.Machine

@[simp] theorem byteOf_wordOfBytes_zero (a b c d : Byte) : byteOf (wordOfBytes a b c d) 0 = a := by
  unfold byteOf wordOfBytes
  ext i hi
  simp only [BitVec.getElem_extractLsb', BitVec.getLsbD_append]
  have : 8 * 0 + i < 8 := by omega
  simp [hi]

@[simp] theorem byteOf_wordOfBytes_one (a b c d : Byte) : byteOf (wordOfBytes a b c d) 1 = b := by
  unfold byteOf wordOfBytes
  ext i hi
  simp only [BitVec.getElem_extractLsb', BitVec.getLsbD_append]
  simp [hi, show ¬ 8 + i < 8 by omega, show 8 + i - 8 = i by omega]

@[simp] theorem byteOf_wordOfBytes_two (a b c d : Byte) : byteOf (wordOfBytes a b c d) 2 = c := by
  unfold byteOf wordOfBytes
  ext i hi
  simp only [BitVec.getElem_extractLsb', BitVec.getLsbD_append]
  simp [hi, show ¬ 16 + i < 8 by omega, show ¬ 16 + i - 8 < 8 by omega, show 16 + i - 8 - 8 = i by omega]

@[simp] theorem byteOf_wordOfBytes_three (a b c d : Byte) : byteOf (wordOfBytes a b c d) 3 = d := by
  unfold byteOf wordOfBytes
  ext i hi
  simp only [BitVec.getElem_extractLsb', BitVec.getLsbD_append]
  simp [hi, show ¬ 24 + i < 8 by omega, show ¬ 24 + i - 8 < 8 by omega, show ¬ 24 + i - 8 - 8 < 8 by omega,
    show 24 + i - 8 - 8 - 8 = i by omega]

/-- A word is its four bytes, least significant first (R54). -/
@[simp] theorem wordOfBytes_byteOf (w : Word) :
    wordOfBytes (byteOf w 0) (byteOf w 1) (byteOf w 2) (byteOf w 3) = w := by
  unfold byteOf wordOfBytes
  ext i hi
  simp only [BitVec.getElem_append, BitVec.getElem_extractLsb']
  split
  · simp [BitVec.getLsbD_eq_getElem hi]
  · split
    · simp [show 8 + (i - 8) = i by omega, BitVec.getLsbD_eq_getElem hi]
    · split
      · simp [show 16 + (i - 8 - 8) = i by omega, BitVec.getLsbD_eq_getElem hi]
      · simp [show 24 + (i - 8 - 8 - 8) = i by omega, BitVec.getLsbD_eq_getElem hi]

@[simp] theorem lowWord_joinWords (hi lo : Word) : lowWord (joinWords hi lo) = lo := by
  unfold lowWord joinWords
  ext i h
  simp only [BitVec.getElem_extractLsb', BitVec.getLsbD_append]
  simp [h]

@[simp] theorem highWord_joinWords (hi lo : Word) : highWord (joinWords hi lo) = hi := by
  unfold highWord joinWords
  ext i h
  simp only [BitVec.getElem_extractLsb', BitVec.getLsbD_append]
  simp [h]

@[simp] theorem joinWords_halves (d : DWord) : joinWords (highWord d) (lowWord d) = d := by
  unfold lowWord highWord joinWords
  ext i h
  simp only [BitVec.getElem_append, BitVec.getElem_extractLsb']
  split
  · simp [BitVec.getLsbD_eq_getElem h]
  · simp [show 32 + (i - 32) = i by omega, BitVec.getLsbD_eq_getElem h]

/-- The low half of a 64-bit register (R53). -/
theorem lowWord_eq_setWidth (d : DWord) : lowWord d = d.setWidth 32 := by
  unfold lowWord; ext i h; simp [BitVec.getLsbD_eq_getElem (show i < 64 by omega)]

/-- The high half of a 64-bit register (R53). -/
theorem highWord_eq_setWidth (d : DWord) : highWord d = (d >>> 32).setWidth 32 := by
  unfold highWord; ext i h; simp

/-- The bytes of a key word are the key's bytes (R54, R86). -/
theorem byteOf_keyWord (key : List Byte) (i j : Nat) (h : j < 4) : byteOf (keyWord key i) j = keyByte key (i + j) := by
  have : j = 0 ∨ j = 1 ∨ j = 2 ∨ j = 3 := by omega
  rcases this with rfl | rfl | rfl | rfl <;> simp [keyWord]

/-- The tail word depends on the first `t` bytes alone (R123). -/
theorem tailK32_congr {b c : Nat → Byte} {t : Nat} (h : ∀ j < t, b j = c j) : tailK32 t b = tailK32 t c := by
  suffices ∀ k, foldTail32 b t k = foldTail32 c t k from this 0
  induction t with
  | zero => intro k; rfl
  | succ t ih => intro k; simp only [foldTail32, h t (by omega)]; exact ih (fun j hj => h j (by omega)) _

theorem foldTail64_congr {b c : Nat → Byte} {t : Nat} (h : ∀ j < t, b j = c j) (k : DWord) :
    foldTail64 b t k = foldTail64 c t k := by
  induction t generalizing k with
  | zero => rfl
  | succ t ih => simp only [foldTail64, h t (by omega)]; exact ih (fun j hj => h j (by omega)) _

/-- The tail step of U128 depends on the first `t` bytes alone (R153). -/
theorem tail128_congr {b c : Nat → Byte} {t : Nat} (h : ∀ j < t, b j = c j) (h1 h2 : DWord) :
    tail128 t b h1 h2 = tail128 t c h1 h2 := by
  have e1 : tailK1_64 t b = tailK1_64 t c := foldTail64_congr (fun j hj => h j (by omega)) _
  have e2 : t > 8 → tailK2_64 t b = tailK2_64 t c :=
    fun _ => foldTail64_congr (fun j hj => h (j + 8) (by omega)) _
  unfold tail128
  by_cases ht : t > 8
  · simp [ht, e1, e2 ht]
  · simp [ht, e1]

/-- The model's rotation is Lean's (R100). -/
theorem rotl32_eq_rotateLeft (x : Word) {r : Nat} (h : r < 32) : rotl32 x r = x.rotateLeft r := by
  simp [rotl32, BitVec.rotateLeft, BitVec.rotateLeftAux, Nat.mod_eq_of_lt h]

/-- The model's rotation is Lean's (R101). -/
theorem rotl64_eq_rotateLeft (x : DWord) {r : Nat} (h : r < 64) : rotl64 x r = x.rotateLeft r := by
  simp [rotl64, BitVec.rotateLeft, BitVec.rotateLeftAux, Nat.mod_eq_of_lt h]

/-- The bits of the low `t` bytes of a value. -/
theorem getLsbD_lowBytes {n : Nat} (d : BitVec n) (t i : Nat) :
    (BitVec.ofNat n (d.toNat % 2 ^ (8 * t))).getLsbD i = (decide (i < 8 * t) && d.getLsbD i) := by
  have : d.toNat % 2 ^ (8 * t) < 2 ^ n := lt_of_le_of_lt (Nat.mod_le _ _) d.isLt
  unfold BitVec.getLsbD
  rw [BitVec.toNat_ofNat, Nat.mod_eq_of_lt this, Nat.testBit_mod_two_pow]

/-- One more byte of the low bytes. -/
theorem lowBytes_succ {n : Nat} (d : BitVec n) (j : Nat) :
    BitVec.ofNat n (d.toNat % 2 ^ (8 * (j + 1)))
      = ((d.extractLsb' (8 * j) 8).setWidth n <<< (8 * j)) ^^^ BitVec.ofNat n (d.toNat % 2 ^ (8 * j)) := by
  apply BitVec.eq_of_getLsbD_eq
  intro i hi
  rw [BitVec.getLsbD_xor, getLsbD_lowBytes, getLsbD_lowBytes, BitVec.getLsbD_shiftLeft, BitVec.getLsbD_setWidth,
    BitVec.getLsbD_extractLsb']
  by_cases h1 : i < 8 * j
  · simp [h1, show i < 8 * (j + 1) by omega]
  · by_cases h2 : i < 8 * (j + 1)
    · simp [h1, h2, hi, show i - 8 * j < 8 by omega, show i - 8 * j < n by omega, show 8 * j + (i - 8 * j) = i by omega]
    · simp [h1, h2, show ¬ i - 8 * j < 8 by omega]

/-- The tail word of a 32-bit register is its low `t` bytes (R123). -/
theorem foldTail32_bytes (d : Word) (t : Nat) (k : Word) :
    foldTail32 (byteOf d) t k = k ^^^ BitVec.ofNat 32 (d.toNat % 2 ^ (8 * t)) := by
  induction t generalizing k with
  | zero => simp [foldTail32, Nat.mod_one]
  | succ t ih => rw [foldTail32, ih, lowBytes_succ, BitVec.xor_assoc]; rfl

/-- The tail word of a 64-bit value is its low `t` bytes (R153). -/
theorem foldTail64_bytes (d : DWord) (t : Nat) (k : DWord) :
    foldTail64 (fun j => d.extractLsb' (8 * j) 8) t k = k ^^^ BitVec.ofNat 64 (d.toNat % 2 ^ (8 * t)) := by
  induction t generalizing k with
  | zero => simp [foldTail64, Nat.mod_one]
  | succ t ih => rw [foldTail64, ih, lowBytes_succ, BitVec.xor_assoc]

/-- Two joined words as a number (R9). -/
theorem joinWords_toNat (hi lo : Word) : (joinWords hi lo).toNat = lo.toNat + 2 ^ 32 * hi.toNat := by
  unfold joinWords
  rw [BitVec.toNat_append, ← Nat.shiftLeft_add_eq_or_of_lt lo.isLt, Nat.shiftLeft_eq]
  omega

/-- Byte `j` of two joined words (R87). -/
theorem extract_joinWords (hi lo : Word) (j : Nat) (h : j < 8) :
    (joinWords hi lo).extractLsb' (8 * j) 8 = byteOf (if j < 4 then lo else hi) (j % 4) := by
  unfold joinWords byteOf
  ext i h8
  simp only [BitVec.getElem_extractLsb', BitVec.getLsbD_append]
  by_cases hj : j < 4
  · simp [hj, show 8 * j + i < 32 by omega, Nat.mod_eq_of_lt hj]
  · simp [hj, show ¬ 8 * j + i < 32 by omega, show 8 * j + i - 32 = 8 * (j % 4) + i by omega]

end Sys2Proof.Laws
end

