-- ==== Sys2Proof/Laws/State.lean ====
section
/-! SUPPORT. What each update of State does to each field: one lemma per field per update, so that no later proof
unfolds a record update. Each is true by rfl; it is proved by cases so that simp rewrites with it and the kernel is
never asked to compare the (large) values written. -/

namespace Sys2Proof.Laws

open Sys2Proof Sys2Proof.Machine

/-! ### recordError: ERR is set, no other register but ERRCODE changes (R203) -/

@[simp] theorem recordError_seed32 (e : ErrorKind) (s : State) : (recordError e s).seed32 = s.seed32 := by
  unfold recordError; split <;> rfl
@[simp] theorem recordError_din32 (e : ErrorKind) (s : State) : (recordError e s).din32 = s.din32 := by
  unfold recordError; split <;> rfl
@[simp] theorem recordError_h32 (e : ErrorKind) (s : State) : (recordError e s).h32 = s.h32 := by
  unfold recordError; split <;> rfl
@[simp] theorem recordError_len32 (e : ErrorKind) (s : State) : (recordError e s).len32 = s.len32 := by
  unfold recordError; split <;> rfl
@[simp] theorem recordError_phase32 (e : ErrorKind) (s : State) : (recordError e s).phase32 = s.phase32 := by
  unfold recordError; split <;> rfl
@[simp] theorem recordError_seed128 (e : ErrorKind) (s : State) : (recordError e s).seed128 = s.seed128 := by
  unfold recordError; split <;> rfl
@[simp] theorem recordError_din128_0 (e : ErrorKind) (s : State) : (recordError e s).din128_0 = s.din128_0 := by
  unfold recordError; split <;> rfl
@[simp] theorem recordError_din128_1 (e : ErrorKind) (s : State) : (recordError e s).din128_1 = s.din128_1 := by
  unfold recordError; split <;> rfl
@[simp] theorem recordError_din128_2 (e : ErrorKind) (s : State) : (recordError e s).din128_2 = s.din128_2 := by
  unfold recordError; split <;> rfl
@[simp] theorem recordError_din128_3 (e : ErrorKind) (s : State) : (recordError e s).din128_3 = s.din128_3 := by
  unfold recordError; split <;> rfl
@[simp] theorem recordError_h1 (e : ErrorKind) (s : State) : (recordError e s).h1 = s.h1 := by
  unfold recordError; split <;> rfl
@[simp] theorem recordError_h2 (e : ErrorKind) (s : State) : (recordError e s).h2 = s.h2 := by
  unfold recordError; split <;> rfl
@[simp] theorem recordError_len128 (e : ErrorKind) (s : State) : (recordError e s).len128 = s.len128 := by
  unfold recordError; split <;> rfl
@[simp] theorem recordError_phase128 (e : ErrorKind) (s : State) : (recordError e s).phase128 = s.phase128 := by
  unfold recordError; split <;> rfl
@[simp] theorem recordError_px (e : ErrorKind) (s : State) : (recordError e s).px = s.px := by
  unfold recordError; split <;> rfl
@[simp] theorem recordError_py (e : ErrorKind) (s : State) : (recordError e s).py = s.py := by
  unfold recordError; split <;> rfl
@[simp] theorem recordError_pending (e : ErrorKind) (s : State) : (recordError e s).pending = s.pending := by
  unfold recordError; split <;> rfl
@[simp] theorem recordError_answer (e : ErrorKind) (s : State) : (recordError e s).answer = s.answer := by
  unfold recordError; split <;> rfl

@[simp] theorem recordError_err (e : ErrorKind) (s : State) : (recordError e s).err = true := by
  unfold recordError; split <;> simp_all

@[simp] theorem recordError_errCode (e : ErrorKind) (s : State) :
    (recordError e s).errCode = if s.err then s.errCode else errorCode e := by
  unfold recordError; split <;> rfl

/-! ### clearError (R186) -/

@[simp] theorem clearError_err (s : State) : (clearError s).err = false := by cases s; rfl
@[simp] theorem clearError_errCode (s : State) : (clearError s).errCode = 0 := by cases s; rfl
@[simp] theorem clearError_seed32 (s : State) : (clearError s).seed32 = s.seed32 := by cases s; rfl
@[simp] theorem clearError_din32 (s : State) : (clearError s).din32 = s.din32 := by cases s; rfl
@[simp] theorem clearError_h32 (s : State) : (clearError s).h32 = s.h32 := by cases s; rfl
@[simp] theorem clearError_len32 (s : State) : (clearError s).len32 = s.len32 := by cases s; rfl
@[simp] theorem clearError_phase32 (s : State) : (clearError s).phase32 = s.phase32 := by cases s; rfl
@[simp] theorem clearError_seed128 (s : State) : (clearError s).seed128 = s.seed128 := by cases s; rfl
@[simp] theorem clearError_din128_0 (s : State) : (clearError s).din128_0 = s.din128_0 := by cases s; rfl
@[simp] theorem clearError_din128_1 (s : State) : (clearError s).din128_1 = s.din128_1 := by cases s; rfl
@[simp] theorem clearError_din128_2 (s : State) : (clearError s).din128_2 = s.din128_2 := by cases s; rfl
@[simp] theorem clearError_din128_3 (s : State) : (clearError s).din128_3 = s.din128_3 := by cases s; rfl
@[simp] theorem clearError_h1 (s : State) : (clearError s).h1 = s.h1 := by cases s; rfl
@[simp] theorem clearError_h2 (s : State) : (clearError s).h2 = s.h2 := by cases s; rfl
@[simp] theorem clearError_len128 (s : State) : (clearError s).len128 = s.len128 := by cases s; rfl
@[simp] theorem clearError_phase128 (s : State) : (clearError s).phase128 = s.phase128 := by cases s; rfl
@[simp] theorem clearError_px (s : State) : (clearError s).px = s.px := by cases s; rfl
@[simp] theorem clearError_py (s : State) : (clearError s).py = s.py := by cases s; rfl
@[simp] theorem clearError_pending (s : State) : (clearError s).pending = s.pending := by cases s; rfl
@[simp] theorem clearError_answer (s : State) : (clearError s).answer = s.answer := by cases s; rfl

/-! ### setU32: H32, LEN32, PHASE32 (R41) -/

@[simp] theorem setU32_err (h n : Word) (p : Phase) (s : State) : (setU32 h n p s).err = s.err := by cases s; rfl
@[simp] theorem setU32_errCode (h n : Word) (p : Phase) (s : State) : (setU32 h n p s).errCode = s.errCode := by cases s; rfl
@[simp] theorem setU32_seed32 (h n : Word) (p : Phase) (s : State) : (setU32 h n p s).seed32 = s.seed32 := by cases s; rfl
@[simp] theorem setU32_din32 (h n : Word) (p : Phase) (s : State) : (setU32 h n p s).din32 = s.din32 := by cases s; rfl
@[simp] theorem setU32_h32 (h n : Word) (p : Phase) (s : State) : (setU32 h n p s).h32 = h := by cases s; rfl
@[simp] theorem setU32_len32 (h n : Word) (p : Phase) (s : State) : (setU32 h n p s).len32 = n := by cases s; rfl
@[simp] theorem setU32_phase32 (h n : Word) (p : Phase) (s : State) : (setU32 h n p s).phase32 = p := by cases s; rfl
@[simp] theorem setU32_seed128 (h n : Word) (p : Phase) (s : State) : (setU32 h n p s).seed128 = s.seed128 := by cases s; rfl
@[simp] theorem setU32_din128_0 (h n : Word) (p : Phase) (s : State) : (setU32 h n p s).din128_0 = s.din128_0 := by cases s; rfl
@[simp] theorem setU32_din128_1 (h n : Word) (p : Phase) (s : State) : (setU32 h n p s).din128_1 = s.din128_1 := by cases s; rfl
@[simp] theorem setU32_din128_2 (h n : Word) (p : Phase) (s : State) : (setU32 h n p s).din128_2 = s.din128_2 := by cases s; rfl
@[simp] theorem setU32_din128_3 (h n : Word) (p : Phase) (s : State) : (setU32 h n p s).din128_3 = s.din128_3 := by cases s; rfl
@[simp] theorem setU32_h1 (h n : Word) (p : Phase) (s : State) : (setU32 h n p s).h1 = s.h1 := by cases s; rfl
@[simp] theorem setU32_h2 (h n : Word) (p : Phase) (s : State) : (setU32 h n p s).h2 = s.h2 := by cases s; rfl
@[simp] theorem setU32_len128 (h n : Word) (p : Phase) (s : State) : (setU32 h n p s).len128 = s.len128 := by cases s; rfl
@[simp] theorem setU32_phase128 (h n : Word) (p : Phase) (s : State) : (setU32 h n p s).phase128 = s.phase128 := by cases s; rfl
@[simp] theorem setU32_px (h n : Word) (p : Phase) (s : State) : (setU32 h n p s).px = s.px := by cases s; rfl
@[simp] theorem setU32_py (h n : Word) (p : Phase) (s : State) : (setU32 h n p s).py = s.py := by cases s; rfl
@[simp] theorem setU32_pending (h n : Word) (p : Phase) (s : State) : (setU32 h n p s).pending = s.pending := by cases s; rfl
@[simp] theorem setU32_answer (h n : Word) (p : Phase) (s : State) : (setU32 h n p s).answer = s.answer := by cases s; rfl

/-! ### setU128: H1, H2, LEN128, PHASE128 (R41) -/

@[simp] theorem setU128_err (a b n : DWord) (p : Phase) (s : State) : (setU128 a b n p s).err = s.err := by cases s; rfl
@[simp] theorem setU128_errCode (a b n : DWord) (p : Phase) (s : State) : (setU128 a b n p s).errCode = s.errCode := by cases s; rfl
@[simp] theorem setU128_seed32 (a b n : DWord) (p : Phase) (s : State) : (setU128 a b n p s).seed32 = s.seed32 := by cases s; rfl
@[simp] theorem setU128_din32 (a b n : DWord) (p : Phase) (s : State) : (setU128 a b n p s).din32 = s.din32 := by cases s; rfl
@[simp] theorem setU128_h32 (a b n : DWord) (p : Phase) (s : State) : (setU128 a b n p s).h32 = s.h32 := by cases s; rfl
@[simp] theorem setU128_len32 (a b n : DWord) (p : Phase) (s : State) : (setU128 a b n p s).len32 = s.len32 := by cases s; rfl
@[simp] theorem setU128_phase32 (a b n : DWord) (p : Phase) (s : State) : (setU128 a b n p s).phase32 = s.phase32 := by cases s; rfl
@[simp] theorem setU128_seed128 (a b n : DWord) (p : Phase) (s : State) : (setU128 a b n p s).seed128 = s.seed128 := by cases s; rfl
@[simp] theorem setU128_din128_0 (a b n : DWord) (p : Phase) (s : State) : (setU128 a b n p s).din128_0 = s.din128_0 := by cases s; rfl
@[simp] theorem setU128_din128_1 (a b n : DWord) (p : Phase) (s : State) : (setU128 a b n p s).din128_1 = s.din128_1 := by cases s; rfl
@[simp] theorem setU128_din128_2 (a b n : DWord) (p : Phase) (s : State) : (setU128 a b n p s).din128_2 = s.din128_2 := by cases s; rfl
@[simp] theorem setU128_din128_3 (a b n : DWord) (p : Phase) (s : State) : (setU128 a b n p s).din128_3 = s.din128_3 := by cases s; rfl
@[simp] theorem setU128_h1 (a b n : DWord) (p : Phase) (s : State) : (setU128 a b n p s).h1 = a := by cases s; rfl
@[simp] theorem setU128_h2 (a b n : DWord) (p : Phase) (s : State) : (setU128 a b n p s).h2 = b := by cases s; rfl
@[simp] theorem setU128_len128 (a b n : DWord) (p : Phase) (s : State) : (setU128 a b n p s).len128 = n := by cases s; rfl
@[simp] theorem setU128_phase128 (a b n : DWord) (p : Phase) (s : State) : (setU128 a b n p s).phase128 = p := by cases s; rfl
@[simp] theorem setU128_px (a b n : DWord) (p : Phase) (s : State) : (setU128 a b n p s).px = s.px := by cases s; rfl
@[simp] theorem setU128_py (a b n : DWord) (p : Phase) (s : State) : (setU128 a b n p s).py = s.py := by cases s; rfl
@[simp] theorem setU128_pending (a b n : DWord) (p : Phase) (s : State) : (setU128 a b n p s).pending = s.pending := by cases s; rfl
@[simp] theorem setU128_answer (a b n : DWord) (p : Phase) (s : State) : (setU128 a b n p s).answer = s.answer := by cases s; rfl

/-! ### setPY (R37) -/

@[simp] theorem setPY_err (v : DWord) (s : State) : (setPY v s).err = s.err := by cases s; rfl
@[simp] theorem setPY_errCode (v : DWord) (s : State) : (setPY v s).errCode = s.errCode := by cases s; rfl
@[simp] theorem setPY_seed32 (v : DWord) (s : State) : (setPY v s).seed32 = s.seed32 := by cases s; rfl
@[simp] theorem setPY_din32 (v : DWord) (s : State) : (setPY v s).din32 = s.din32 := by cases s; rfl
@[simp] theorem setPY_h32 (v : DWord) (s : State) : (setPY v s).h32 = s.h32 := by cases s; rfl
@[simp] theorem setPY_len32 (v : DWord) (s : State) : (setPY v s).len32 = s.len32 := by cases s; rfl
@[simp] theorem setPY_phase32 (v : DWord) (s : State) : (setPY v s).phase32 = s.phase32 := by cases s; rfl
@[simp] theorem setPY_seed128 (v : DWord) (s : State) : (setPY v s).seed128 = s.seed128 := by cases s; rfl
@[simp] theorem setPY_din128_0 (v : DWord) (s : State) : (setPY v s).din128_0 = s.din128_0 := by cases s; rfl
@[simp] theorem setPY_din128_1 (v : DWord) (s : State) : (setPY v s).din128_1 = s.din128_1 := by cases s; rfl
@[simp] theorem setPY_din128_2 (v : DWord) (s : State) : (setPY v s).din128_2 = s.din128_2 := by cases s; rfl
@[simp] theorem setPY_din128_3 (v : DWord) (s : State) : (setPY v s).din128_3 = s.din128_3 := by cases s; rfl
@[simp] theorem setPY_h1 (v : DWord) (s : State) : (setPY v s).h1 = s.h1 := by cases s; rfl
@[simp] theorem setPY_h2 (v : DWord) (s : State) : (setPY v s).h2 = s.h2 := by cases s; rfl
@[simp] theorem setPY_len128 (v : DWord) (s : State) : (setPY v s).len128 = s.len128 := by cases s; rfl
@[simp] theorem setPY_phase128 (v : DWord) (s : State) : (setPY v s).phase128 = s.phase128 := by cases s; rfl
@[simp] theorem setPY_px (v : DWord) (s : State) : (setPY v s).px = s.px := by cases s; rfl
@[simp] theorem setPY_py (v : DWord) (s : State) : (setPY v s).py = v := by cases s; rfl
@[simp] theorem setPY_pending (v : DWord) (s : State) : (setPY v s).pending = s.pending := by cases s; rfl
@[simp] theorem setPY_answer (v : DWord) (s : State) : (setPY v s).answer = s.answer := by cases s; rfl

/-! ### respond: the answer alone (R52) -/

@[simp] theorem respond_err (v : Word) (b : Bool) (s : State) : (respond v b s).err = s.err := by cases s; rfl
@[simp] theorem respond_errCode (v : Word) (b : Bool) (s : State) : (respond v b s).errCode = s.errCode := by cases s; rfl
@[simp] theorem respond_seed32 (v : Word) (b : Bool) (s : State) : (respond v b s).seed32 = s.seed32 := by cases s; rfl
@[simp] theorem respond_din32 (v : Word) (b : Bool) (s : State) : (respond v b s).din32 = s.din32 := by cases s; rfl
@[simp] theorem respond_h32 (v : Word) (b : Bool) (s : State) : (respond v b s).h32 = s.h32 := by cases s; rfl
@[simp] theorem respond_len32 (v : Word) (b : Bool) (s : State) : (respond v b s).len32 = s.len32 := by cases s; rfl
@[simp] theorem respond_phase32 (v : Word) (b : Bool) (s : State) : (respond v b s).phase32 = s.phase32 := by cases s; rfl
@[simp] theorem respond_seed128 (v : Word) (b : Bool) (s : State) : (respond v b s).seed128 = s.seed128 := by cases s; rfl
@[simp] theorem respond_din128_0 (v : Word) (b : Bool) (s : State) : (respond v b s).din128_0 = s.din128_0 := by cases s; rfl
@[simp] theorem respond_din128_1 (v : Word) (b : Bool) (s : State) : (respond v b s).din128_1 = s.din128_1 := by cases s; rfl
@[simp] theorem respond_din128_2 (v : Word) (b : Bool) (s : State) : (respond v b s).din128_2 = s.din128_2 := by cases s; rfl
@[simp] theorem respond_din128_3 (v : Word) (b : Bool) (s : State) : (respond v b s).din128_3 = s.din128_3 := by cases s; rfl
@[simp] theorem respond_h1 (v : Word) (b : Bool) (s : State) : (respond v b s).h1 = s.h1 := by cases s; rfl
@[simp] theorem respond_h2 (v : Word) (b : Bool) (s : State) : (respond v b s).h2 = s.h2 := by cases s; rfl
@[simp] theorem respond_len128 (v : Word) (b : Bool) (s : State) : (respond v b s).len128 = s.len128 := by cases s; rfl
@[simp] theorem respond_phase128 (v : Word) (b : Bool) (s : State) : (respond v b s).phase128 = s.phase128 := by cases s; rfl
@[simp] theorem respond_px (v : Word) (b : Bool) (s : State) : (respond v b s).px = s.px := by cases s; rfl
@[simp] theorem respond_py (v : Word) (b : Bool) (s : State) : (respond v b s).py = s.py := by cases s; rfl
@[simp] theorem respond_pending (v : Word) (b : Bool) (s : State) : (respond v b s).pending = s.pending := by cases s; rfl
@[simp] theorem respond_answer (v : Word) (b : Bool) (s : State) : (respond v b s).answer = some ⟨v, b⟩ := by cases s; rfl

/-! ### resetBlock: every register at its reset value (R230) -/

@[simp] theorem resetBlock_err (s : State) : (resetBlock s).err = false := by cases s; rfl
@[simp] theorem resetBlock_errCode (s : State) : (resetBlock s).errCode = 0 := by cases s; rfl
@[simp] theorem resetBlock_seed32 (s : State) : (resetBlock s).seed32 = 0 := by cases s; rfl
@[simp] theorem resetBlock_din32 (s : State) : (resetBlock s).din32 = 0 := by cases s; rfl
@[simp] theorem resetBlock_h32 (s : State) : (resetBlock s).h32 = 0 := by cases s; rfl
@[simp] theorem resetBlock_len32 (s : State) : (resetBlock s).len32 = 0 := by cases s; rfl
@[simp] theorem resetBlock_phase32 (s : State) : (resetBlock s).phase32 = .idle := by cases s; rfl
@[simp] theorem resetBlock_seed128 (s : State) : (resetBlock s).seed128 = 0 := by cases s; rfl
@[simp] theorem resetBlock_din128_0 (s : State) : (resetBlock s).din128_0 = 0 := by cases s; rfl
@[simp] theorem resetBlock_din128_1 (s : State) : (resetBlock s).din128_1 = 0 := by cases s; rfl
@[simp] theorem resetBlock_din128_2 (s : State) : (resetBlock s).din128_2 = 0 := by cases s; rfl
@[simp] theorem resetBlock_din128_3 (s : State) : (resetBlock s).din128_3 = 0 := by cases s; rfl
@[simp] theorem resetBlock_h1 (s : State) : (resetBlock s).h1 = 0 := by cases s; rfl
@[simp] theorem resetBlock_h2 (s : State) : (resetBlock s).h2 = 0 := by cases s; rfl
@[simp] theorem resetBlock_len128 (s : State) : (resetBlock s).len128 = 0 := by cases s; rfl
@[simp] theorem resetBlock_phase128 (s : State) : (resetBlock s).phase128 = .idle := by cases s; rfl
@[simp] theorem resetBlock_px (s : State) : (resetBlock s).px = 0 := by cases s; rfl
@[simp] theorem resetBlock_py (s : State) : (resetBlock s).py = 0 := by cases s; rfl
@[simp] theorem resetBlock_pending (s : State) : (resetBlock s).pending = s.pending := by cases s; rfl
@[simp] theorem resetBlock_answer (s : State) : (resetBlock s).answer = none := by cases s; rfl

end Sys2Proof.Laws
end

