-- ==== Sys2Proof/Laws/Ops.lean ====
section
/-! SUPPORT. One lemma per shared operation: all it can do. -/

namespace Sys2Proof.Laws

open Sys2Proof Sys2Proof.Machine

/-- Everything `recordError` can do (R203, R38). -/
theorem recordError_cases (e : ErrorKind) (s : State) :
    (s.err = true ∧ recordError e s = s) ∨
    (s.err = false ∧ recordError e s = { s with err := true, errCode := errorCode e }) := by
  unfold recordError
  cases h : s.err <;> simp

/-- Everything `checked` can do (R81, R205). -/
theorem checked_cases (f p : Bool) (act : State → State) (s : State) :
    (f = true ∧ p = true ∧ checked f p act s = .next (act s)) ∨
    (f = true ∧ p = false ∧ checked f p act s = .next (recordError .sequence s)) ∨
    (f = false ∧ checked f p act s = .next (recordError .badField s)) := by
  cases f <;> cases p <;> simp [checked]

@[simp] theorem checked_true (act : State → State) (s : State) : checked true true act s = .next (act s) := rfl

@[simp] theorem checked_out_of_phase (act : State → State) (s : State) :
    checked true false act s = .next (recordError .sequence s) := rfl

@[simp] theorem checked_bad_field (p : Bool) (act : State → State) (s : State) :
    checked false p act s = .next (recordError .badField s) := rfl

/-- A command always gives a next state (R202). -/
theorem exec_answers_next (i : Instr) (s : State) : ∃ t, exec i s = .next t := by
  cases i <;> exact ⟨_, rfl⟩

/-- The offset of a register leads back to it (R51). -/
@[simp] theorem regAt_regOffset (r : Reg) : regAt (regOffset r) = some r := by cases r <;> rfl

/-- CMD is at offset 0x004 (R51). -/
theorem regAt_cmd : regAt 0x04 = some .cmd := rfl

@[simp] theorem regAt_four : regAt 4#8 = some .cmd := rfl

/-- A register's offset is word-aligned (R51, R57). -/
@[simp] theorem wordAligned_regOffset (r : Reg) : wordAligned (regOffset r) .four = true := by cases r <;> rfl

/-- A mapped offset is the offset of its register, so it is one of the 22 (R51). -/
theorem regAt_eq_some {off : Offset} {r : Reg} (h : regAt off = some r) : off = regOffset r := by
  have := List.find?_some h
  exact (by simpa using this : regOffset r = off).symm

/-- What a write to a read-write register leaves: one field changed (R59, R36). -/
theorem writeReg_cases {r : Reg} {v : Word} {s t : State} (h : writeReg r v s = some t) :
    (r = .seed32 ∧ t = { s with seed32 := v }) ∨ (r = .din32 ∧ t = { s with din32 := v }) ∨
    (r = .seed128 ∧ t = { s with seed128 := v }) ∨
    (r = .din128_0 ∧ t = { s with din128_0 := v }) ∨ (r = .din128_1 ∧ t = { s with din128_1 := v }) ∨
    (r = .din128_2 ∧ t = { s with din128_2 := v }) ∨ (r = .din128_3 ∧ t = { s with din128_3 := v }) ∨
    (r = .px_lo ∧ t = { s with px := joinWords (highWord s.px) v }) ∨
    (r = .px_hi ∧ t = { s with px := joinWords v (lowWord s.px) }) := by
  cases r <;> simp_all [writeReg]

/-- What every command can do: an update `act` that leaves the model's own fields alone, or an error recorded. -/
theorem checked_pending_answer {f p : Bool} {act : State → State} {s t : State}
    (ha : (act s).pending = s.pending ∧ (act s).answer = s.answer) (h : checked f p act s = .next t) :
    t.pending = s.pending ∧ t.answer = s.answer := by
  rcases checked_cases f p act s with ⟨-, -, e⟩ | ⟨-, -, e⟩ | ⟨-, e⟩ <;> rw [e] at h <;> cases h
  · exact ha
  · simp
  · simp

end Sys2Proof.Laws
end

