-- ==== Sys2Proof/Laws/Exec.lean ====
section
/-! SUPPORT. The meaning of each command over the shared operations, one equation per command; later proofs rewrite
with these and never unfold `exec`. -/

namespace Sys2Proof.Laws

open Sys2Proof Sys2Proof.Machine

theorem exec_nop (s : State) : exec .nop s = checked true true (fun s => s) s := rfl

theorem exec_clrerr (s : State) : exec .clrerr s = checked true true clearError s := rfl

theorem exec_init32 (s : State) :
    exec .init32 s = checked true true (fun s => setU32 s.seed32 0 .absorb s) s := rfl

theorem exec_block32 (s : State) :
    exec .block32 s = checked true (absorbLegal s.phase32)
      (fun s => setU32 (block32 s.h32 s.din32) (s.len32 + 4) s.phase32 s) s := rfl

theorem exec_tail32 (cnt : BitVec 4) (s : State) :
    exec (.tail32 cnt) s = checked (tail32CntOk cnt) (absorbLegal s.phase32)
      (fun s => setU32 (s.h32 ^^^ mixK32 (tailK32 cnt.toNat (inputByte32 s))) (s.len32 + cnt.setWidth 32)
        .tailed s) s := rfl

theorem exec_final32 (s : State) :
    exec .final32 s = checked true (finalLegal s.phase32)
      (fun s => setU32 (final32 s.h32 s.len32) s.len32 .done s) s := rfl

theorem exec_init128 (s : State) :
    exec .init128 s = checked true true (fun s => setU128 (seedWide s) (seedWide s) 0 .absorb s) s := rfl

theorem exec_block128 (s : State) :
    exec .block128 s = checked true (absorbLegal s.phase128)
      (fun s => setU128 (block128 s.h1 s.h2 (blockWord1 s) (blockWord2 s)).1
        (block128 s.h1 s.h2 (blockWord1 s) (blockWord2 s)).2 (s.len128 + 16) s.phase128 s) s := rfl

theorem exec_tail128 (cnt : BitVec 4) (s : State) :
    exec (.tail128 cnt) s = checked (tail128CntOk cnt) (absorbLegal s.phase128)
      (fun s => setU128 (tail128 cnt.toNat (inputByte128 s) s.h1 s.h2).1
        (tail128 cnt.toNat (inputByte128 s) s.h1 s.h2).2 (s.len128 + cnt.setWidth 64) .tailed s) s := rfl

theorem exec_final128 (s : State) :
    exec .final128 s = checked true (finalLegal s.phase128)
      (fun s => setU128 (final128 s.h1 s.h2 s.len128).1 (final128 s.h1 s.h2 s.len128).2 s.len128 .done s) s := rfl

theorem exec_rotl32 (rot : BitVec 6) (s : State) :
    exec (.rotl32 rot) s = checked (rotl32RotOk rot) true
      (fun s => setPY ((rotl32 (primOperand32 s) rot.toNat).setWidth 64) s) s := rfl

theorem exec_rotl64 (rot : BitVec 6) (s : State) :
    exec (.rotl64 rot) s = checked (rotl64RotOk rot) true
      (fun s => setPY (rotl64 (primOperand64 s) rot.toNat) s) s := rfl

theorem exec_fmix32 (s : State) :
    exec .fmix32 s = checked true true (fun s => setPY ((fmix32 (primOperand32 s)).setWidth 64) s) s := rfl

theorem exec_fmix64 (s : State) :
    exec .fmix64 s = checked true true (fun s => setPY (fmix64 (primOperand64 s)) s) s := rfl

/-- Every command is an update guarded by a field check and a phase check (R81); the update leaves the model's own
fields alone, and neither the check nor the update reads the pending events. -/
theorem exec_eq_checked (i : Instr) : ∃ (f : Bool) (p : State → Bool) (act : State → State),
    (∀ u, (act u).pending = u.pending ∧ (act u).answer = u.answer) ∧
    (∀ u q, p { u with pending := q } = p u ∧ act { u with pending := q } = { act u with pending := q }) ∧
    ∀ s, exec i s = checked f (p s) act s := by
  cases i with
  | nop => exact ⟨true, fun _ => true, fun s => s, fun _ => ⟨rfl, rfl⟩, fun _ _ => ⟨rfl, rfl⟩, exec_nop⟩
  | clrerr => exact ⟨true, fun _ => true, clearError, fun _ => ⟨rfl, rfl⟩, fun _ _ => ⟨rfl, rfl⟩, exec_clrerr⟩
  | init32 => exact ⟨true, fun _ => true, _, fun _ => ⟨by simp, by simp⟩, fun _ _ => ⟨rfl, rfl⟩, exec_init32⟩
  | block32 => exact ⟨true, fun s => absorbLegal s.phase32, _, fun _ => ⟨by simp, by simp⟩, fun _ _ => ⟨rfl, rfl⟩, exec_block32⟩
  | tail32 cnt => exact ⟨_, fun s => absorbLegal s.phase32, _, fun _ => ⟨by simp, by simp⟩, fun _ _ => ⟨rfl, rfl⟩, exec_tail32 cnt⟩
  | final32 => exact ⟨true, fun s => finalLegal s.phase32, _, fun _ => ⟨by simp, by simp⟩, fun _ _ => ⟨rfl, rfl⟩, exec_final32⟩
  | init128 => exact ⟨true, fun _ => true, _, fun _ => ⟨by simp, by simp⟩, fun _ _ => ⟨rfl, rfl⟩, exec_init128⟩
  | block128 => exact ⟨true, fun s => absorbLegal s.phase128, _, fun _ => ⟨by simp, by simp⟩, fun _ _ => ⟨rfl, rfl⟩, exec_block128⟩
  | tail128 cnt => exact ⟨_, fun s => absorbLegal s.phase128, _, fun _ => ⟨by simp, by simp⟩, fun _ _ => ⟨rfl, rfl⟩, exec_tail128 cnt⟩
  | final128 => exact ⟨true, fun s => finalLegal s.phase128, _, fun _ => ⟨by simp, by simp⟩, fun _ _ => ⟨rfl, rfl⟩, exec_final128⟩
  | rotl32 rot => exact ⟨_, fun _ => true, _, fun _ => ⟨by simp, by simp⟩, fun _ _ => ⟨rfl, rfl⟩, exec_rotl32 rot⟩
  | rotl64 rot => exact ⟨_, fun _ => true, _, fun _ => ⟨by simp, by simp⟩, fun _ _ => ⟨rfl, rfl⟩, exec_rotl64 rot⟩
  | fmix32 => exact ⟨true, fun _ => true, _, fun _ => ⟨by simp, by simp⟩, fun _ _ => ⟨rfl, rfl⟩, exec_fmix32⟩
  | fmix64 => exact ⟨true, fun _ => true, _, fun _ => ⟨by simp, by simp⟩, fun _ _ => ⟨rfl, rfl⟩, exec_fmix64⟩

/-- A command leaves the model's own fields alone: what is pending and what was answered (R52). -/
theorem exec_pending_answer {i : Instr} {s t : State} (h : exec i s = .next t) :
    t.pending = s.pending ∧ t.answer = s.answer := by
  obtain ⟨f, p, act, ha, -, he⟩ := exec_eq_checked i
  rw [he] at h
  exact checked_pending_answer (ha s) h

/-- What a command does does not depend on what is pending (R61). -/
theorem exec_with_pending {i : Instr} {s t : State} (q : List HostEvent) (h : exec i s = .next t) :
    exec i { s with pending := q } = .next { t with pending := q } := by
  obtain ⟨f, p, act, -, hq, he⟩ := exec_eq_checked i
  rw [he] at h ⊢
  rw [(hq s q).1]
  rcases checked_cases f (p s) act s with ⟨hf, hp, e⟩ | ⟨hf, hp, e⟩ | ⟨hf, e⟩ <;> rw [e] at h <;> cases h
  · rw [hf, hp, checked_true, (hq s q).2]
  · rw [hf, hp, checked_out_of_phase]; cases s; simp only [recordError]; split <;> rfl
  · rw [hf, checked_bad_field]; cases s; simp only [recordError]; split <;> rfl

end Sys2Proof.Laws
end

