-- ==== Sys2Proof/Laws/Step.lean ====
section
/-! SUPPORT. Everything a step can do, said once: later proofs split on it instead of unfolding `step`. -/

namespace Sys2Proof.Laws

open Sys2Proof Sys2Proof.Machine

/-- Everything a step can do on `s` with the event `e` first: `u` is `s` with the event taken off. A reset; a legal
read; a store to a read-write register; a command performed; a command word rejected; a bus error. -/
inductive StepCase (u t : State) : HostEvent → Prop where
  | reset (h : t = resetBlock u) : StepCase u t .reset
  | read (r : Reg) (h : t = respond (readReg r u) false u) : StepCase u t (.read (regOffset r) .four)
  | store (r : Reg) (v : Word) (u' : State) (hw : writeReg r v u = some u') (h : t = respond 0 false u') :
      StepCase u t (.write (regOffset r) .four v)
  | command (w : Word) (i : Instr) (u' : State) (hd : decode w = .ok i) (he : exec i u = .next u')
      (h : t = respond 0 false u') : StepCase u t (.write 0x04 .four w)
  | rejected (w : Word) (r : DecodeReject) (hd : decode w = .error r)
      (h : t = respond 0 false (recordError (rejectError r) u)) : StepCase u t (.write 0x04 .four w)
  | busErrorRead (off : Offset) (size : AccessSize) (hb : wordAligned off size = false ∨ regAt off = none)
      (h : t = respond 0 true (recordError .bus u)) : StepCase u t (.read off size)
  | busErrorWrite (off : Offset) (size : AccessSize) (v : Word)
      (hb : wordAligned off size = false ∨ regAt off = none ∨
        ∃ r, r ≠ .cmd ∧ regAt off = some r ∧ writeReg r v u = none)
      (h : t = respond 0 true (recordError .bus u)) : StepCase u t (.write off size v)

theorem wordAligned_iff {off : Offset} {size : AccessSize} :
    wordAligned off size = true ↔ size = .four ∧ off.toNat % 4 = 0 := by
  simp [wordAligned]

theorem regOffset_aligned (r : Reg) : (regOffset r).toNat % 4 = 0 := by cases r <;> rfl

/-- The inversion of one event. -/
theorem perform_cases {e : HostEvent} {u t : State} (h : perform e u = .next t) : StepCase u t e := by
  cases e with
  | reset => exact .reset (by simpa [perform] using h.symm)
  | read off size =>
    simp only [perform, busRead] at h
    split at h
    · rename_i ha
      obtain ⟨rfl, -⟩ := wordAligned_iff.1 ha
      split at h
      · rename_i r hr
        obtain rfl := regAt_eq_some hr
        exact .read r (by simpa using h.symm)
      · rename_i hr
        exact .busErrorRead _ _ (.inr hr) (by simpa [busError] using h.symm)
    · rename_i ha
      exact .busErrorRead _ _ (.inl (by simpa using ha)) (by simpa [busError] using h.symm)
  | write off size w =>
    simp only [perform, busWrite] at h
    split at h
    · rename_i ha
      obtain ⟨rfl, -⟩ := wordAligned_iff.1 ha
      split at h
      · rename_i hr
        obtain rfl : off = 0x04 := regAt_eq_some hr
        cases hd : decode w with
        | ok i =>
          obtain ⟨u', hu⟩ := exec_answers_next i u
          exact .command w i u' hd hu (by simpa [performCommand, hd, hu, completeWrite] using h.symm)
        | error r => exact .rejected w r hd (by simpa [performCommand, hd, completeWrite] using h.symm)
      · rename_i r hr hx
        cases hw : writeReg r w u with
        | some u' =>
          obtain rfl := regAt_eq_some hx
          exact .store r w u' hw (by simpa [hw] using h.symm)
        | none => exact .busErrorWrite _ _ w (.inr (.inr ⟨r, fun e => hr e, hx, hw⟩)) (by simpa [hw, busError] using h.symm)
      · rename_i hr
        exact .busErrorWrite _ _ w (.inr (.inl hr)) (by simpa [busError] using h.symm)
    · rename_i ha
      exact .busErrorWrite _ _ w (.inl (by simpa using ha)) (by simpa [busError] using h.symm)

/-- A step performs the first pending event on the state with that event taken off (R61). -/
theorem step_of_pending {s : State} {e : HostEvent} {rest : List HostEvent} (h : s.pending = e :: rest) :
    step s = perform e { s with pending := rest } := by
  simp only [step, deliver, h]

/-- A command word that decodes runs its command (R23). -/
theorem perform_command {w : Word} {i : Instr} {u t : State} (hd : decode w = .ok i) (he : exec i u = .next t) :
    perform (.write 0x04 .four w) u = .next (respond 0 false t) := by
  have ha : wordAligned 0x04 .four = true := rfl
  simp only [perform, busWrite, ha, if_true, regAt_cmd, performCommand, hd, he, completeWrite]

/-- A command word that does not decode raises what the decoder names (R89). -/
theorem perform_rejected {w : Word} {r : DecodeReject} (u : State) (hd : decode w = .error r) :
    perform (.write 0x04 .four w) u = .next (respond 0 false (recordError (rejectError r) u)) := by
  have ha : wordAligned 0x04 .four = true := rfl
  simp only [perform, busWrite, ha, if_true, regAt_cmd, performCommand, hd, completeWrite]

/-- A legal read (R52). -/
theorem perform_read (r : Reg) (u : State) :
    perform (.read (regOffset r) .four) u = .next (respond (readReg r u) false u) := by
  simp only [perform, busRead, wordAligned_regOffset, if_true, regAt_regOffset]

/-- A store to a read-write register (R52). -/
theorem perform_store {r : Reg} {v : Word} {u t : State} (hw : writeReg r v u = some t) :
    perform (.write (regOffset r) .four v) u = .next (respond 0 false t) := by
  cases r <;> simp only [writeReg, reduceCtorEq, Option.some.injEq] at hw <;>
    simp only [perform, busWrite, wordAligned_regOffset, if_true, regAt_regOffset, writeReg, hw]

/-- A read that is not aligned, not 4 bytes wide or at no register is a bus error (R207). -/
theorem perform_bad_read {off : Offset} {size : AccessSize} (u : State)
    (h : wordAligned off size = false ∨ regAt off = none) : perform (.read off size) u = busError u := by
  rcases h with h | h
  · simp [perform, busRead, h]
  · simp [perform, busRead, h]

/-- A write that is not aligned, not 4 bytes wide, at no register or at a read-only one is a bus error (R207). -/
theorem perform_bad_write {off : Offset} {size : AccessSize} {v : Word} (u : State)
    (h : wordAligned off size = false ∨ regAt off = none ∨ ∃ r, r ≠ .cmd ∧ regAt off = some r ∧ writeReg r v u = none) :
    perform (.write off size v) u = busError u := by
  rcases h with h | h | ⟨r, hr, h, hw⟩
  · simp [perform, busWrite, h]
  · simp [perform, busWrite, h]
  · cases r <;> simp_all [perform, busWrite]

/-- Every step takes the first pending event off and performs it. -/
theorem step_cases {s t : State} (h : step s = .next t) :
    ∃ e rest, s.pending = e :: rest ∧ StepCase { s with pending := rest } t e := by
  unfold step deliver at h
  split at h
  · cases h
  · rename_i e rest hp
    exact ⟨e, rest, hp, perform_cases h⟩

/-- An event always gives a next state (R243). -/
theorem perform_answers_next (e : HostEvent) (u : State) : ∃ t, perform e u = .next t := by
  cases e with
  | reset => exact ⟨_, rfl⟩
  | read off size =>
    simp only [perform, busRead]
    split
    · split
      · exact ⟨_, rfl⟩
      · exact ⟨_, rfl⟩
    · exact ⟨_, rfl⟩
  | write off size w =>
    simp only [perform, busWrite]
    split
    · split
      · cases hd : decode w with
        | ok i =>
          obtain ⟨u', hu⟩ := exec_answers_next i u
          exact ⟨respond 0 false u', by simp [performCommand, hd, hu, completeWrite]⟩
        | error r => exact ⟨respond 0 false (recordError (rejectError r) u), by simp [performCommand, hd, completeWrite]⟩
      · split
        · exact ⟨_, rfl⟩
        · exact ⟨_, rfl⟩
      · exact ⟨_, rfl⟩
    · exact ⟨_, rfl⟩

end Sys2Proof.Laws
end

