-- ==== Sys2Proof/Laws/Safety.lean ====
section
/-! SUPPORT. The terms of Safety over the machine's own operations, and runs cut into their parts. -/

namespace Sys2Proof.Laws

open Sys2Proof Sys2Proof.Machine Sys2Proof.Safety

/-- The step an event takes is the event performed on the state as it is. -/
theorem stepOf_eq_perform (e : HostEvent) (s : State) : stepOf e s = perform e s := by
  cases s; rfl

theorem respond_eq_answered (v : Word) (b : Bool) (s : State) : respond v b s = answered v b s := rfl

/-- Recording an error is the rule of R38. -/
theorem recordError_eq_raised (e : ErrorKind) (s : State) : recordError e s = raised (errorCode e) s := by
  rcases recordError_cases e s with ⟨h, he⟩ | ⟨h, he⟩ <;> rw [he] <;> cases s <;> simp_all [raised]

/-- A bus error is an error of code 4 with `berr = 1` (R207). -/
theorem busError_eq (s : State) : busError s = .next (answered 0 true (raised 4 s)) := by
  rw [busError, recordError_eq_raised]; rfl

/-- An event never changes what is pending after it (R20). -/
theorem perform_pending {e : HostEvent} {u t : State} (h : perform e u = .next t) : t.pending = u.pending := by
  cases perform_cases h with
  | reset ht => simp [ht]
  | read r ht => simp [ht]
  | store r v u' hw ht =>
    rcases writeReg_cases hw with ⟨-, e⟩ | ⟨-, e⟩ | ⟨-, e⟩ | ⟨-, e⟩ | ⟨-, e⟩ | ⟨-, e⟩ | ⟨-, e⟩ | ⟨-, e⟩ | ⟨-, e⟩ <;>
      simp [ht, e]
  | command w i u' hd he ht => simp [ht, (exec_pending_answer he).1]
  | rejected w r hd ht => simp [ht]
  | busErrorRead off size hb ht => simp [ht]
  | busErrorWrite off size v hb ht => simp [ht]

/-- A run of no step. -/
theorem runEvents_nil (rest : List HostEvent) (s : State) : runEvents [] rest s = .next { s with pending := rest } :=
  rfl

/-- What an event does does not depend on what is pending (R61). -/
theorem perform_with_pending {e : HostEvent} {s t : State} (q : List HostEvent) (h : perform e s = .next t) :
    perform e { s with pending := q } = .next { t with pending := q } := by
  have hrec : ∀ k, recordError k { s with pending := q } = { recordError k s with pending := q } := by
    intro k; cases s; simp only [recordError]; split <;> rfl
  cases perform_cases h with
  | reset ht => subst ht; rfl
  | read r ht => subst ht; rw [perform_read]; cases r <;> rfl
  | store r v u' hw ht =>
    subst ht
    have : writeReg r v { s with pending := q } = some { u' with pending := q } := by
      cases r <;> simp only [writeReg, reduceCtorEq, Option.some.injEq] at hw ⊢ <;> subst hw <;> rfl
    rw [perform_store this]; rfl
  | command w i u' hd he ht => subst ht; rw [perform_command hd (exec_with_pending q he)]; rfl
  | rejected w r hd ht => subst ht; rw [perform_rejected _ hd, hrec]; rfl
  | busErrorRead off size hb ht => subst ht; rw [perform_bad_read _ hb, busError, hrec]; rfl
  | busErrorWrite off size v hb ht =>
    subst ht
    have hb' : wordAligned off size = false ∨ regAt off = none ∨
        ∃ r, r ≠ .cmd ∧ regAt off = some r ∧ writeReg r v { s with pending := q } = none := by
      rcases hb with hb | hb | ⟨r, hr, hb, hw⟩
      · exact .inl hb
      · exact .inr (.inl hb)
      · refine .inr (.inr ⟨r, hr, hb, ?_⟩)
        cases r <;> simp_all [writeReg]
    rw [perform_bad_write _ hb', busError, hrec]; rfl

/-- A run of any machine begins with a step. -/
theorem core_run_succ {M : Host.Core} {k : Nat} {s t : M.State} (h : M.step s = .next t) :
    M.run (k + 1) s = M.run k t := by
  rw [Host.Core.run, h]

/-- A run of this machine begins with a step. -/
theorem run_succ {k : Nat} {s t : State} (h : step s = .next t) :
    Host.Core.run Sys2Proof.core (k + 1) s = Host.Core.run Sys2Proof.core k t :=
  core_run_succ (M := Sys2Proof.core) h

/-- A run begins with its first event, which sees the rest pending. -/
theorem runEvents_cons {e : HostEvent} {evs rest : List HostEvent} {s t : State} (h : perform e s = .next t) :
    runEvents (e :: evs) rest s = runEvents evs rest t := by
  have hs := step_of_pending (s := { s with pending := e :: (evs ++ rest) }) rfl
  rw [perform_with_pending (evs ++ rest) h] at hs
  exact run_succ hs

/-- A run of two parts is the run of the second after the first. -/
theorem runEvents_append {xs ys rest : List HostEvent} {s t : State} (h : runEvents xs [] s = .next t) :
    runEvents (xs ++ ys) rest s = runEvents ys rest t := by
  induction xs generalizing s with
  | nil =>
    rw [runEvents_nil] at h
    cases h; rfl
  | cons e xs ih =>
    obtain ⟨u, hu⟩ := perform_answers_next e s
    rw [runEvents_cons hu] at h
    rw [List.cons_append, runEvents_cons hu]
    exact ih h

/-- A run always ends in a next state (R243). -/
theorem runEvents_answers_next (xs rest : List HostEvent) (s : State) :
    ∃ t, runEvents xs rest s = .next t ∧ t.pending = rest := by
  induction xs generalizing s with
  | nil => exact ⟨_, runEvents_nil rest s, rfl⟩
  | cons e xs ih =>
    obtain ⟨u, hu⟩ := perform_answers_next e s
    rw [runEvents_cons hu]
    exact ih u

end Sys2Proof.Laws
end

