-- ==== Sys2Proof/Laws/Cases.lean ====
section
/-! SUPPORT. Everything a command can do, said once: by its next state, and by its error fields. Later proofs split
on these instead of unfolding a meaning. -/

namespace Sys2Proof.Laws

open Sys2Proof Sys2Proof.Machine Sys2Proof.Safety

theorem absorbLegal_iff {p : Phase} : absorbLegal p = true ↔ p = .absorb := by cases p <;> simp [absorbLegal]

theorem absorbLegal_of_ne {p : Phase} (h : p ≠ .absorb) : absorbLegal p = false := by
  cases p <;> simp_all [absorbLegal]

theorem finalLegal_iff {p : Phase} : finalLegal p = true ↔ p = .absorb ∨ p = .tailed := by
  cases p <;> simp [finalLegal]

theorem finalLegal_eq_false_iff {p : Phase} : finalLegal p = false ↔ p = .idle ∨ p = .done := by
  cases p <;> simp [finalLegal]

/-- Everything a command can do: raise (the commands with a phase or an operand field only), or its own effect, under
the conditions of its rule. -/
inductive ExecCase (s t : State) : Instr → Prop where
  | raises (i : Instr) (k : ErrorKind)
      (hi : (∃ c, i = .tail32 c) ∨ i = .block32 ∨ i = .final32 ∨ (∃ c, i = .tail128 c) ∨ i = .block128 ∨
        i = .final128 ∨ (∃ r, i = .rotl32 r) ∨ (∃ r, i = .rotl64 r))
      (h : t = recordError k s) : ExecCase s t i
  | nop (h : t = s) : ExecCase s t .nop
  | clrerr (h : t = clearError s) : ExecCase s t .clrerr
  | init32 (h : t = setU32 s.seed32 0 .absorb s) : ExecCase s t .init32
  | block32 (hp : s.phase32 = .absorb) (h : t = setU32 (block32 s.h32 s.din32) (s.len32 + 4) .absorb s) :
      ExecCase s t .block32
  | tail32 (c : BitVec 4) (hp : s.phase32 = .absorb) (hc : 1 ≤ c.toNat ∧ c.toNat ≤ 3)
      (h : t = setU32 (s.h32 ^^^ mixK32 (tailK32 c.toNat (inputByte32 s))) (s.len32 + c.setWidth 32) .tailed s) :
      ExecCase s t (.tail32 c)
  | final32 (hp : s.phase32 = .absorb ∨ s.phase32 = .tailed)
      (h : t = setU32 (final32 s.h32 s.len32) s.len32 .done s) : ExecCase s t .final32
  | init128 (h : t = setU128 (seedWide s) (seedWide s) 0 .absorb s) : ExecCase s t .init128
  | block128 (hp : s.phase128 = .absorb)
      (h : t = setU128 (block128 s.h1 s.h2 (blockWord1 s) (blockWord2 s)).1
        (block128 s.h1 s.h2 (blockWord1 s) (blockWord2 s)).2 (s.len128 + 16) .absorb s) : ExecCase s t .block128
  | tail128 (c : BitVec 4) (hp : s.phase128 = .absorb) (hc : 1 ≤ c.toNat)
      (h : t = setU128 (tail128 c.toNat (inputByte128 s) s.h1 s.h2).1
        (tail128 c.toNat (inputByte128 s) s.h1 s.h2).2 (s.len128 + c.setWidth 64) .tailed s) :
      ExecCase s t (.tail128 c)
  | final128 (hp : s.phase128 = .absorb ∨ s.phase128 = .tailed)
      (h : t = setU128 (final128 s.h1 s.h2 s.len128).1 (final128 s.h1 s.h2 s.len128).2 s.len128 .done s) :
      ExecCase s t .final128
  | rotl32 (r : BitVec 6) (hr : 1 ≤ r.toNat ∧ r.toNat ≤ 31)
      (h : t = setPY ((rotl32 (primOperand32 s) r.toNat).setWidth 64) s) : ExecCase s t (.rotl32 r)
  | rotl64 (r : BitVec 6) (hr : 1 ≤ r.toNat) (h : t = setPY (rotl64 (primOperand64 s) r.toNat) s) :
      ExecCase s t (.rotl64 r)
  | fmix32 (h : t = setPY ((fmix32 (primOperand32 s)).setWidth 64) s) : ExecCase s t .fmix32
  | fmix64 (h : t = setPY (fmix64 (primOperand64 s)) s) : ExecCase s t .fmix64

/-- The inversion of `checked`. -/
theorem checked_inv {f p : Bool} {act : State → State} {s t : State} (h : checked f p act s = .next t) :
    (f = true ∧ p = true ∧ t = act s) ∨ ∃ k, t = recordError k s := by
  rcases checked_cases f p act s with ⟨hf, hp, e⟩ | ⟨-, -, e⟩ | ⟨-, e⟩ <;> rw [e] at h <;>
    have h := Host.Outcome.next.inj h
  · exact .inl ⟨hf, hp, h.symm⟩
  · exact .inr ⟨_, h.symm⟩
  · exact .inr ⟨_, h.symm⟩

theorem checked_tt {act : State → State} {s t : State} (h : checked true true act s = .next t) : t = act s := by
  rw [checked_true] at h; exact (Host.Outcome.next.inj h).symm

/-- The inversion of `exec`. -/
theorem exec_cases {i : Instr} {s t : State} (h : exec i s = .next t) : ExecCase s t i := by
  cases i with
  | nop => rw [exec_nop] at h; exact .nop (checked_tt h)
  | clrerr => rw [exec_clrerr] at h; exact .clrerr (checked_tt h)
  | init32 => rw [exec_init32] at h; exact .init32 (checked_tt h)
  | init128 => rw [exec_init128] at h; exact .init128 (checked_tt h)
  | fmix32 =>
    rw [exec_fmix32] at h
    exact .fmix32 (checked_tt (act := fun s => setPY ((fmix32 (primOperand32 s)).setWidth 64) s) h)
  | fmix64 => rw [exec_fmix64] at h; exact .fmix64 (checked_tt (act := fun s => setPY (fmix64 (primOperand64 s)) s) h)
  | block32 =>
    rw [exec_block32] at h
    rcases checked_inv h with ⟨-, hp, e⟩ | ⟨k, e⟩
    · have hp := absorbLegal_iff.1 hp
      rw [hp] at e; exact .block32 hp e
    · exact .raises _ k (by simp) e
  | tail32 c =>
    rw [exec_tail32] at h
    rcases checked_inv h with ⟨hf, hp, e⟩ | ⟨k, e⟩
    · exact .tail32 c (absorbLegal_iff.1 hp) (by simpa [tail32CntOk] using hf) e
    · exact .raises _ k (by simp) e
  | final32 =>
    rw [exec_final32] at h
    rcases checked_inv h with ⟨hf, hp, e⟩ | ⟨k, e⟩
    · exact .final32 (finalLegal_iff.1 hp) e
    · exact .raises _ k (by simp) e
  | block128 =>
    rw [exec_block128] at h
    rcases checked_inv h with ⟨-, hp, e⟩ | ⟨k, e⟩
    · have hp := absorbLegal_iff.1 hp
      rw [hp] at e; exact .block128 hp e
    · exact .raises _ k (by simp) e
  | tail128 c =>
    rw [exec_tail128] at h
    rcases checked_inv h with ⟨hf, hp, e⟩ | ⟨k, e⟩
    · exact .tail128 c (absorbLegal_iff.1 hp) (by simp [tail128CntOk] at hf; exact hf.1) e
    · exact .raises _ k (by simp) e
  | final128 =>
    rw [exec_final128] at h
    rcases checked_inv h with ⟨hf, hp, e⟩ | ⟨k, e⟩
    · exact .final128 (finalLegal_iff.1 hp) e
    · exact .raises _ k (by simp) e
  | rotl32 r =>
    rw [exec_rotl32] at h
    rcases checked_inv h with ⟨hf, hp, e⟩ | ⟨k, e⟩
    · exact .rotl32 r (by simpa [rotl32RotOk] using hf) e
    · exact .raises _ k (by simp) e
  | rotl64 r =>
    rw [exec_rotl64] at h
    rcases checked_inv h with ⟨hf, hp, e⟩ | ⟨k, e⟩
    · exact .rotl64 r (by simp [rotl64RotOk] at hf; exact hf.1) e
    · exact .raises _ k (by simp) e

/-- Everything a command can do to the error fields: raise BAD_FIELD or SEQUENCE, clear them, or leave them; and what
it does else does not depend on them (R208). -/
theorem exec_error_cases {i : Instr} {s t : State} (h : exec i s = .next t) :
    (∃ c : BitVec 4, (c = 2 ∨ c = 3) ∧ t = raised c s ∧ i ≠ .clrerr ∧
        ∀ b k, exec i { s with err := b, errCode := k } = .next (raised c { s with err := b, errCode := k })) ∨
      (i = .clrerr ∧ t = clearError s) ∨
      (i ≠ .clrerr ∧ t.err = s.err ∧ t.errCode = s.errCode ∧
        ∀ b c, exec i { s with err := b, errCode := c } = .next { t with err := b, errCode := c }) := by
  have key : ∀ (f p : Bool) (act : State → State),
      checked f p act s = .next t → i ≠ .clrerr →
      (act s).err = s.err → (act s).errCode = s.errCode →
      (∀ b c, exec i { s with err := b, errCode := c } = checked f p act { s with err := b, errCode := c }) →
      (∀ b c, act { s with err := b, errCode := c } = { act s with err := b, errCode := c }) →
      (∃ c : BitVec 4, (c = 2 ∨ c = 3) ∧ t = raised c s ∧ i ≠ .clrerr ∧
        ∀ b k, exec i { s with err := b, errCode := k } = .next (raised c { s with err := b, errCode := k })) ∨
       (i = .clrerr ∧ t = clearError s) ∨
      (i ≠ .clrerr ∧ t.err = s.err ∧ t.errCode = s.errCode ∧
        ∀ b c, exec i { s with err := b, errCode := c } = .next { t with err := b, errCode := c }) := by
    intro f p act h hi h1 h2 h3 h4
    rcases checked_cases f p act s with ⟨hf, hp, e⟩ | ⟨hf, hp, e⟩ | ⟨hf, e⟩ <;> rw [e] at h <;>
      have h := Host.Outcome.next.inj h <;> subst h
    · exact .inr (.inr ⟨hi, h1, h2, fun b c => by rw [h3, hf, hp, checked_true, h4]⟩)
    · exact .inl ⟨3, .inr rfl, by rw [recordError_eq_raised]; rfl, hi,
        fun b c => by rw [h3, hf, hp, checked_out_of_phase, recordError_eq_raised]; rfl⟩
    · exact .inl ⟨2, .inl rfl, by rw [recordError_eq_raised]; rfl, hi,
        fun b c => by rw [h3, hf, checked_bad_field, recordError_eq_raised]; rfl⟩
  cases i with
  | clrerr => rw [exec_clrerr, checked_true] at h; exact .inr (.inl ⟨rfl, (Host.Outcome.next.inj h).symm⟩)
  | nop =>
    rw [exec_nop] at h
    exact key _ _ _ h (by simp) (by simp) (by simp) (fun b c => by rw [exec_nop]) (fun b c => rfl)
  | init32 =>
    rw [exec_init32] at h
    exact key _ _ _ h (by simp) (by simp) (by simp) (fun b c => by rw [exec_init32]) (fun b c => rfl)
  | init128 =>
    rw [exec_init128] at h
    exact key _ _ _ h (by simp) (by simp) (by simp) (fun b c => by rw [exec_init128]) (fun b c => rfl)
  | fmix32 =>
    rw [exec_fmix32] at h
    exact key _ _ _ h (by simp) (by simp) (by simp) (fun b c => by rw [exec_fmix32]) (fun b c => rfl)
  | fmix64 =>
    rw [exec_fmix64] at h
    exact key _ _ _ h (by simp) (by simp) (by simp) (fun b c => by rw [exec_fmix64]) (fun b c => rfl)
  | block32 =>
    rw [exec_block32] at h
    exact key _ _ _ h (by simp) (by simp) (by simp) (fun b c => by rw [exec_block32]) (fun b c => rfl)
  | final32 =>
    rw [exec_final32] at h
    exact key _ _ _ h (by simp) (by simp) (by simp) (fun b c => by rw [exec_final32]) (fun b c => rfl)
  | block128 =>
    rw [exec_block128] at h
    exact key _ _ _ h (by simp) (by simp) (by simp) (fun b c => by rw [exec_block128]) (fun b c => rfl)
  | final128 =>
    rw [exec_final128] at h
    exact key _ _ _ h (by simp) (by simp) (by simp) (fun b c => by rw [exec_final128]) (fun b c => rfl)
  | tail32 n =>
    rw [exec_tail32] at h
    exact key _ _ _ h (by simp) (by simp) (by simp) (fun b c => by rw [exec_tail32]) (fun b c => rfl)
  | tail128 n =>
    rw [exec_tail128] at h
    exact key _ _ _ h (by simp) (by simp) (by simp) (fun b c => by rw [exec_tail128]) (fun b c => rfl)
  | rotl32 n =>
    rw [exec_rotl32] at h
    exact key _ _ _ h (by simp) (by simp) (by simp) (fun b c => by rw [exec_rotl32]) (fun b c => rfl)
  | rotl64 n =>
    rw [exec_rotl64] at h
    exact key _ _ _ h (by simp) (by simp) (by simp) (fun b c => by rw [exec_rotl64]) (fun b c => rfl)

/-- A byte of the window is unchanged if the registers that hold it are (R54). -/
theorem windowByte_congr {s t : State} {off : Offset}
    (h : ∀ r : Reg, (regOffset r).toNat ≤ off.toNat ∧ off.toNat < (regOffset r).toNat + 4 →
      readReg r t = readReg r s) :
    windowByte t off = windowByte s off := by
  unfold windowByte
  cases hr : regAt (BitVec.ofNat 8 (4 * (off.toNat / 4))) with
  | none => rfl
  | some r =>
    have h1 := regAt_eq_some hr
    have : (regOffset r).toNat = 4 * (off.toNat / 4) := by
      rw [← h1]; have := off.isLt; simp; omega
    simp only [Option.map_some]
    rw [h r (by omega)]

end Sys2Proof.Laws
end

