-- ==== Sys2Proof/Laws/Decode.lean ====
section
/-! SUPPORT. The fields of a command word as numbers, and what a word that decodes looks like (30_encoding.md R81). -/

namespace Sys2Proof.Laws

open Sys2Proof

theorem opField_toNat (w : Word) : (opField w).toNat = w.toNat % 16 := by
  simp [opField, BitVec.extractLsb'_toNat]

theorem cntField_toNat (w : Word) : (cntField w).toNat = w.toNat / 16 % 16 := by
  simp [cntField, BitVec.extractLsb'_toNat, Nat.shiftRight_eq_div_pow]

theorem rotField_toNat (w : Word) : (rotField w).toNat = w.toNat / 256 % 64 := by
  simp [rotField, BitVec.extractLsb'_toNat, Nat.shiftRight_eq_div_pow]

theorem rsvField_toNat (w : Word) : (rsvField w).toNat = w.toNat / 16384 := by
  have := w.isLt
  simp [rsvField, BitVec.extractLsb'_toNat, Nat.shiftRight_eq_div_pow]
  omega

/-- The 16 opcodes by name: two reserved, fourteen defined (R82). -/
theorem opcode_cases : ∀ op : BitVec 4,
    (op = 13 ∨ op = 14) ∨ op = 0 ∨ op = 1 ∨ op = 2 ∨ op = 3 ∨ op = 4 ∨ op = 5 ∨ op = 6 ∨ op = 7 ∨ op = 8 ∨ op = 9 ∨
      op = 10 ∨ op = 11 ∨ op = 12 ∨ op = 15 := by decide

/-- When the three forms of R82 accept. -/
theorem decodePlain_eq_ok {cnt : BitVec 4} {rot : BitVec 6} {i j : Instr} :
    decodePlain cnt rot i = .ok j ↔ cnt = 0 ∧ rot = 0 ∧ i = j := by
  unfold decodePlain; split <;> simp_all

theorem decodeWithCnt_eq_ok {rot : BitVec 6} {i j : Instr} : decodeWithCnt rot i = .ok j ↔ rot = 0 ∧ i = j := by
  unfold decodeWithCnt; split <;> simp_all

theorem decodeWithRot_eq_ok {cnt : BitVec 4} {i j : Instr} : decodeWithRot cnt i = .ok j ↔ cnt = 0 ∧ i = j := by
  unfold decodeWithRot; split <;> simp_all

/-- The encoded words as numbers (R91). -/
theorem encode_tail32_toNat : ∀ cnt : BitVec 4, (encode (.tail32 cnt)).toNat = 3 + 16 * cnt.toNat := by decide
theorem encode_tail128_toNat : ∀ cnt : BitVec 4, (encode (.tail128 cnt)).toNat = 7 + 16 * cnt.toNat := by decide
theorem encode_rotl32_toNat : ∀ rot : BitVec 6, (encode (.rotl32 rot)).toNat = 9 + 256 * rot.toNat := by decide
theorem encode_rotl64_toNat : ∀ rot : BitVec 6, (encode (.rotl64 rot)).toNat = 10 + 256 * rot.toNat := by decide

end Sys2Proof.Laws
end

