-- ==== Sys2Proof/Laws/Hash.lean ====
section
/-! SUPPORT. The whole hashes of R128 and R159 block by block, and what they read of the key. -/

namespace Sys2Proof.Laws

open Sys2Proof Sys2Proof.Machine Sys2Proof.Safety

theorem keyByte_append_left (a b : List Byte) (i : Nat) (h : i < a.length) : keyByte (a ++ b) i = keyByte a i := by
  unfold keyByte; exact List.getD_append _ _ _ _ h

theorem keyByte_append_right (a b : List Byte) (i : Nat) : keyByte (a ++ b) (a.length + i) = keyByte b i := by
  unfold keyByte; rw [List.getD_append_right _ _ _ _ (by omega)]; congr 1; omega

theorem keyByte_low (f : Nat → Byte) (t i : Nat) (h : i < t) : keyByte ((List.range t).map f) i = f i := by
  simp [keyByte, h]

/-- One more block (R128). -/
theorem absorb32_succ (key : List Byte) (seed : Word) (m : Nat) :
    absorb32 key seed (m + 1) = block32 (absorb32 key seed m) (keyWord key (4 * m)) := by
  simp [absorb32, List.range_succ]

/-- One more block (R159). -/
theorem absorb128_succ (key : List Byte) (seed : Word) (m : Nat) :
    absorb128 key seed (m + 1) = block128 (absorb128 key seed m).1 (absorb128 key seed m).2
      (keyDWord key (16 * m)) (keyDWord key (16 * m + 8)) := by
  simp [absorb128, List.range_succ]

/-- The first blocks do not depend on what follows them (R131). -/
theorem absorb32_prefix (a b : List Byte) (seed : Word) (m : Nat) (h : 4 * m ≤ a.length) :
    absorb32 (a ++ b) seed m = absorb32 a seed m := by
  induction m with
  | zero => simp [absorb32]
  | succ m ih =>
    rw [absorb32_succ, absorb32_succ, ih (by omega)]
    simp only [keyWord]
    repeat rw [keyByte_append_left _ _ _ (by omega)]

/-- The first blocks do not depend on what follows them (R161). -/
theorem absorb128_prefix (a b : List Byte) (seed : Word) (m : Nat) (h : 16 * m ≤ a.length) :
    absorb128 (a ++ b) seed m = absorb128 a seed m := by
  induction m with
  | zero => simp [absorb128]
  | succ m ih =>
    rw [absorb128_succ, absorb128_succ, ih (by omega)]
    have e : ∀ i, i + 8 ≤ a.length → keyDWord (a ++ b) i = keyDWord a i := by
      intro i hi
      simp only [keyDWord, keyWord]
      repeat rw [keyByte_append_left _ _ _ (by omega)]
    rw [e _ (by omega), e _ (by omega)]

/-- A delivered block is the block word (R86). -/
theorem keyWord_append_lowInput32 (s : State) (key : List Byte) (n : Nat) (hn : n = key.length) :
    keyWord (key ++ lowInput32 s 4) n = s.din32 := by
  subst hn
  have e := fun i (h : i < 4) =>
    (keyByte_append_right key (lowInput32 s 4) i).trans (keyByte_low (inputByte32 s) 4 i h)
  simp only [keyWord]
  rw [e 1 (by decide), e 2 (by decide), e 3 (by decide),
    show keyByte (key ++ lowInput32 s 4) key.length = _ from e 0 (by decide)]
  simp [inputByte32]

/-- A delivered block is the two block words (R87). -/
theorem keyDWord_append_lowInput128 (s : State) (key : List Byte) (n : Nat) (hn : n = key.length) :
    keyDWord (key ++ lowInput128 s 16) n = blockWord1 s ∧
      keyDWord (key ++ lowInput128 s 16) (n + 8) = blockWord2 s := by
  subst hn
  have e := fun i (h : i < 16) =>
    (keyByte_append_right key (lowInput128 s 16) i).trans (keyByte_low (inputByte128 s) 16 i h)
  have w : ∀ k (hk : k < 4), keyWord (key ++ lowInput128 s 16) (key.length + 4 * k) = din128 s k := by
    intro k hk
    simp only [keyWord]
    rw [e _ (by omega), Nat.add_assoc, Nat.add_assoc, Nat.add_assoc, e (4 * k + 1) (by omega),
      e (4 * k + 2) (by omega), e (4 * k + 3) (by omega)]
    simp only [inputByte128, show 4 * k / 4 = k by omega, show (4 * k + 1) / 4 = k by omega,
      show (4 * k + 2) / 4 = k by omega, show (4 * k + 3) / 4 = k by omega,
      show 4 * k % 4 = 0 by omega, show (4 * k + 1) % 4 = 1 by omega,
      show (4 * k + 2) % 4 = 2 by omega, show (4 * k + 3) % 4 = 3 by omega, wordOfBytes_byteOf]
  have w0 := w 0 (by decide)
  have w1 := w 1 (by decide)
  have w2 := w 2 (by decide)
  have w3 := w 3 (by decide)
  simp only [Nat.mul_zero, Nat.add_zero] at w0
  constructor
  · simp only [keyDWord, w0, show key.length + 4 = key.length + 4 * 1 by omega, w1]; rfl
  · simp only [keyDWord]
    rw [show key.length + 8 = key.length + 4 * 2 by omega, w2,
      show key.length + 4 * 2 + 4 = key.length + 4 * 3 by omega, w3]
    rfl

end Sys2Proof.Laws
end

