-- ==== Sys2Proof/Laws/PerInstr.lean ====
section
/-! SUPPORT. Facts about every command as syntax, one lemma per constructor: the fields of its encoded word
(30_encoding.md R81, R91). -/

namespace Sys2Proof.Laws.EncodeFields

open Sys2Proof

/-- The opcode of a command (R82). -/
def opcodeOf : Instr → BitVec 4
  | .nop => 0x0
  | .init32 => 0x1
  | .block32 => 0x2
  | .tail32 _ => 0x3
  | .final32 => 0x4
  | .init128 => 0x5
  | .block128 => 0x6
  | .tail128 _ => 0x7
  | .final128 => 0x8
  | .rotl32 _ => 0x9
  | .rotl64 _ => 0xA
  | .fmix32 => 0xB
  | .fmix64 => 0xC
  | .clrerr => 0xF

/-- The encoded word has the command's opcode, and RSV is 0. -/
def Statement (i : Instr) : Prop := opField (encode i) = opcodeOf i ∧ rsvField (encode i) = 0

theorem nop : Statement .nop := by unfold Statement; decide
theorem init32 : Statement .init32 := by unfold Statement; decide
theorem block32 : Statement .block32 := by unfold Statement; decide
theorem tail32 (cnt : BitVec 4) : Statement (.tail32 cnt) := by unfold Statement; revert cnt; decide
theorem final32 : Statement .final32 := by unfold Statement; decide
theorem init128 : Statement .init128 := by unfold Statement; decide
theorem block128 : Statement .block128 := by unfold Statement; decide
theorem tail128 (cnt : BitVec 4) : Statement (.tail128 cnt) := by unfold Statement; revert cnt; decide
theorem final128 : Statement .final128 := by unfold Statement; decide
theorem rotl32 (rot : BitVec 6) : Statement (.rotl32 rot) := by unfold Statement; revert rot; decide
theorem rotl64 (rot : BitVec 6) : Statement (.rotl64 rot) := by unfold Statement; revert rot; decide
theorem fmix32 : Statement .fmix32 := by unfold Statement; decide
theorem fmix64 : Statement .fmix64 := by unfold Statement; decide
theorem clrerr : Statement .clrerr := by unfold Statement; decide

end Sys2Proof.Laws.EncodeFields
end

