-- ==== Sys2Proof/Tests/Slice0.lean ====
section
/-! SUPPORT. Tests by kernel evaluation. The expected values are those of spec/95_test_vectors.md (its section is named
at each group), of the examples in the numbered rules, or written out by hand from them; none is this model's own
answer. The last part meets the hypotheses of each obligation that has any, at boundary values. -/

namespace Sys2Proof.Tests.Slice0

open Sys2Proof Sys2Proof.Machine Sys2Proof.Safety

/-- The state a step or command ends in, if it ends in one. -/
def final (r : Result) : Option State :=
  match r with
  | .next s => some s
  | .fault _ => none
  | .refused _ => none

/-- The state after the host writes a word to CMD. -/
def afterWord (s : State) (w : Nat) : Option State := final (step (s.withFetchWord 32 w))

/-- The state after an access. -/
def afterEvent (s : State) (e : HostEvent) : Option State := final (stepOf e s)

/-- A block with values in the registers of U32. -/
def blockU32 (h len din : Word) (p : Phase) : State :=
  { State.reset with h32 := h, len32 := len, din32 := din, phase32 := p }

/-- A block with values in the registers of U128. -/
def blockU128 (h1 h2 len : DWord) (d0 d1 d2 d3 : Word) (p : Phase) : State :=
  { State.reset with h1 := h1, h2 := h2, len128 := len, din128_0 := d0, din128_1 := d1, din128_2 := d2,
                     din128_3 := d3, phase128 := p }

/-- A block with a value in PX. -/
def blockP (x : DWord) : State := { State.reset with px := x }

/-- What a U32 command may write. -/
def regsU32 (s : State) : Word × Word × Phase := (s.h32, s.len32, s.phase32)

/-- What a U128 command may write. -/
def regsU128 (s : State) : DWord × DWord × DWord × Phase := (s.h1, s.h2, s.len128, s.phase128)

/-! ### WellFormed refuses (30_encoding.md R83) -/

theorem test_wf_tail32_zero : (Instr.tail32 0).wellFormed = false := by decide
theorem test_wf_tail32_four : (Instr.tail32 4).wellFormed = false := by decide
theorem test_wf_tail128_zero : (Instr.tail128 0).wellFormed = false := by decide
theorem test_wf_rotl32_zero : (Instr.rotl32 0).wellFormed = false := by decide
theorem test_wf_rotl32_thirty_two : (Instr.rotl32 32).wellFormed = false := by decide
theorem test_wf_rotl64_zero : (Instr.rotl64 0).wellFormed = false := by decide
theorem test_wf_bounds : (Instr.tail32 1).wellFormed ∧ (Instr.tail32 3).wellFormed ∧ (Instr.tail128 1).wellFormed ∧
    (Instr.tail128 15).wellFormed ∧ (Instr.rotl32 1).wellFormed ∧ (Instr.rotl32 31).wellFormed ∧
    (Instr.rotl64 1).wellFormed ∧ (Instr.rotl64 63).wellFormed := by decide

/-! ### Decoding, each word written out from the table of R82: RSV, ROT, CNT, OP -/

theorem test_decode_nop :
    decode 0b00000000000000000000000000000000#32 = .ok .nop := by decide
theorem test_decode_init32 :
    decode 0b00000000000000000000000000000001#32 = .ok .init32 := by decide
theorem test_decode_block32 :
    decode 0b00000000000000000000000000000010#32 = .ok .block32 := by decide
theorem test_decode_tail32 :
    decode 0b00000000000000000000000000100011#32 = .ok (.tail32 2) := by decide
theorem test_decode_final32 :
    decode 0b00000000000000000000000000000100#32 = .ok .final32 := by decide
theorem test_decode_init128 :
    decode 0b00000000000000000000000000000101#32 = .ok .init128 := by decide
theorem test_decode_block128 :
    decode 0b00000000000000000000000000000110#32 = .ok .block128 := by decide
theorem test_decode_tail128 :
    decode 0b00000000000000000000000010110111#32 = .ok (.tail128 11) := by decide
theorem test_decode_final128 :
    decode 0b00000000000000000000000000001000#32 = .ok .final128 := by decide
theorem test_decode_rotl32 :
    decode 0b00000000000000000001111100001001#32 = .ok (.rotl32 31) := by decide
theorem test_decode_rotl64 :
    decode 0b00000000000000000010000100001010#32 = .ok (.rotl64 33) := by decide
theorem test_decode_fmix32 :
    decode 0b00000000000000000000000000001011#32 = .ok .fmix32 := by decide
theorem test_decode_fmix64 :
    decode 0b00000000000000000000000000001100#32 = .ok .fmix64 := by decide
theorem test_decode_clrerr :
    decode 0b00000000000000000000000000001111#32 = .ok .clrerr := by decide

/-- ILLEGAL_OP before BAD_FIELD (section 7.1). -/
theorem test_decode_illegal_first : decode 0xFFFFC00E = .error .illegalOp := by decide
theorem test_decode_rsv_top : decode 0x80000001 = .error .badField := by decide
theorem test_decode_rsv_bottom : decode 0x00004000 = .error .badField := by decide
theorem test_decode_nop_cnt : decode 0x00000010 = .error .badField := by decide
theorem test_decode_init32_rot : decode 0x00000101 = .error .badField := by decide
theorem test_decode_tail32_rot : decode 0x00000103 = .error .badField := by decide
theorem test_table_word : decodeTableWord 32 0x00001F09 = some (.rotl32 31) := by decide

/-! ### One step each: section 2 (P), 3 (U32), 5 (U128), 7 (errors) -/

theorem test_nop :
    afterWord { State.reset with py := 7, err := true, errCode := 3 } 0x00000000
      = some { State.reset with py := 7, err := true, errCode := 3, answer := some ⟨0, false⟩ } := by decide
theorem test_clrerr :
    (afterWord { State.reset with py := 7, err := true, errCode := 3 } 0x0000000F).map (fun t => (t.err, t.errCode, t.py))
      = some (false, 0, 7) := by decide
theorem test_clrerr_bad_field :
    (afterWord { State.reset with err := true, errCode := 3 } 0x0000001F).map (fun t => (t.err, t.errCode))
      = some (true, 3) := by decide
theorem test_init32 :
    (afterWord { blockU32 5 9 1 .done with seed32 := 0x9747B28C } 0x00000001).map regsU32
      = some (0x9747B28C, 0, .absorb) := by decide
theorem test_block32 :
    (afterWord (blockU32 0x9747B28C 0 0x6C6C6548 .absorb) 0x00000002).map regsU32
      = some (0xDAE4C92E, 4, .absorb) := by decide
theorem test_block32_out_of_phase :
    (afterWord (blockU32 1 2 3 .tailed) 0x00000002).map (fun t => (regsU32 t, statusWord t))
      = some ((1, 2, .tailed), 0x231) := by decide
theorem test_tail32 :
    (afterWord (blockU32 0 0 0xAA636261 .absorb) 0x00000033).map regsU32 = some (0xA7349DB7, 3, .tailed) := by decide
theorem test_tail32_length_wraps :
    (afterWord (blockU32 0xFFFFFFFF 0xFFFFFFFF 0xFFFFFFFF .absorb) 0x00000033).map regsU32
      = some (0x60178E6F, 2, .tailed) := by decide
theorem test_final32 :
    (afterWord (blockU32 0x0B9A97D7 5 0 .tailed) 0x00000004).map regsU32 = some (0xE89B9AF6, 5, .done) := by decide
theorem test_final32_twice :
    (afterWord (blockU32 7 5 0 .done) 0x00000004).map (fun t => (regsU32 t, statusWord t))
      = some ((7, 5, .done), 0x331) := by decide
theorem test_init128 :
    (afterWord { State.reset with seed128 := 0xFFFFFFFF } 0x00000005).map regsU128
      = some (0x00000000FFFFFFFF, 0x00000000FFFFFFFF, 0, .absorb) := by decide
theorem test_block128 :
    (afterWord (blockU128 0 0 0 0x65685420 0x63626120 0x7262206B 0x206E776F .absorb) 0x00000006).map regsU128
      = some (0x49CE64639648500B, 0x62B111AFAB730F2D, 16, .absorb) := by decide
theorem test_block128_lanes_in_order :
    (afterWord (blockU128 0 0 0 1 0 0 0 .absorb) 0x00000006).map regsU128
      = some (0xC8DAD7B91B1FFFB1, 0xEC46369DBFE9592A, 16, .absorb) := by decide
theorem test_tail128_eight :
    (afterWord (blockU128 0 0 0 0x04030201 0x08070605 0x0C0B0A09 0x100F0E0D .absorb) 0x00000087).map regsU128
      = some (0x84912EA0966DB987, 0, 8, .tailed) := by decide
theorem test_tail128_thirteen :
    (afterWord (blockU128 0 0 0 0x04030201 0x08070605 0x0C0B0A09 0x100F0E0D .absorb) 0x000000D7).map regsU128
      = some (0x84912EA0966DB987, 0x0FED1371C91428D6, 13, .tailed) := by decide
theorem test_final128 :
    (afterWord (blockU128 0x515233EBF2A47C15 0x106EA6D665619948 43 0 0 0 0 .tailed) 0x00000008).map regsU128
      = some (0xE34BBC7BBC071B6C, 0x7A433CA9C49A9347, 43, .done) := by decide
theorem test_rotl32 :
    (afterWord (blockP 0xFFFFFFFF00000001) 0x00000109).map (·.py) = some 0x0000000000000002 := by decide
theorem test_rotl32_bad_field :
    (afterWord (blockP 1) 0x00002009).map (fun t => (t.py, statusWord t)) = some (0, 0x021) := by decide
theorem test_rotl64 :
    (afterWord (blockP 0x0123456789ABCDEF) 0x0000210A).map (·.py) = some 0x13579BDE02468ACF := by decide
theorem test_rotl64_bad_field :
    (afterWord (blockP 1) 0x0000000A).map (fun t => (t.py, statusWord t)) = some (0, 0x021) := by decide
theorem test_fmix32 :
    (afterWord (blockP 0xFFFFFFFF00000001) 0x0000000B).map (·.py) = some 0x00000000514E28B7 := by decide
theorem test_fmix64 :
    (afterWord (blockP 0x0123456789ABCDEF) 0x0000000C).map (·.py) = some 0x87CBFBFE89022CEA := by decide

/-! ### Accesses (section 7.3, programs P4 and P6) -/

theorem test_read_id :
    (afterEvent State.reset (.read 0x00 .four)).map (·.answer) = some (some ⟨0x4D4D4833, false⟩) := by decide
theorem test_read_reserved :
    (afterEvent State.reset (.read 0x24 .four)).map (fun t => (t.answer, statusWord t))
      = some (some ⟨0, true⟩, 0x041) := by decide
theorem test_read_half :
    (afterEvent State.reset (.read 0x10 .two)).map (fun t => (t.answer, statusWord t))
      = some (some ⟨0, true⟩, 0x041) := by decide
theorem test_write_read_only :
    (afterEvent State.reset (.write 0x54 .four 1)).map (fun t => (t.answer, statusWord t))
      = some (some ⟨0, true⟩, 0x041) := by decide
theorem test_write_misaligned :
    (afterEvent State.reset (.write 0x11 .four 1)).map (fun t => (t.seed32, statusWord t)) = some (0, 0x041) := by decide
theorem test_write_seed32 :
    (afterEvent State.reset (.write 0x10 .four 0x9747B28C)).map (fun t => (t.seed32, statusWord t))
      = some (0x9747B28C, 0) := by decide
theorem test_write_px_hi :
    (afterEvent (blockP 0x89ABCDEF) (.write 0x64 .four 0x01234567)).map (·.px) = some 0x0123456789ABCDEF := by decide
theorem test_reset_then_final32 :
    ((afterEvent (blockU32 0x86A7049E 4 0 .absorb) .reset).bind (afterWord · 0x4)).map statusWord
      = some 0x031 := by decide
theorem test_nothing_pending :
    final (step State.reset) = none := by decide

/-! ### The whole hashes (sections 1.1, 1.2, 5.6) and the sequence of program P1 -/

theorem test_hash32_a :
    hash32
      [0x61] 0 = 0x3C2569B2 := by decide
theorem test_hash32_hello_world :
    hash32
      [0x48, 0x65, 0x6C, 0x6C, 0x6F, 0x2C, 0x20, 0x77, 0x6F, 0x72, 0x6C, 0x64, 0x21] 0x9747B28C = 0x24884CBA := by decide
theorem test_hash128_hello_world :
    hash128
      [0x48, 0x65, 0x6C, 0x6C, 0x6F, 0x2C, 0x20, 0x77, 0x6F, 0x72, 0x6C, 0x64, 0x21] 0
      = (0xF1512DD1D2D665DF, 0x2C326650A8F3C564) := by decide
theorem test_canonical32_abcde :
    canonical32 [0x61, 0x62, 0x63, 0x64, 0x65] 0 =
      [.write 0x10 .four 0, .write 0x04 .four 0x1, .write 0x14 .four 0x64636261,
      .write 0x04 .four 0x2, .write 0x14 .four 0x65, .write 0x04 .four 0x13, .write 0x04 .four 0x4,
        .read 0x18 .four] := by decide
theorem test_digest_a :
    (digest32 (blockU32 0x3C2569B2 1 0 .done)).map (fun d => (d.asBytes, d.asU32Words, d.asU64Words))
      = some ([0xB2, 0x69, 0x25, 0x3C], [0x3C2569B2], [0x000000003C2569B2]) := by decide
theorem test_digest128_words :
    (digest128 (blockU128 0x85555565F6597889 0xE6B53A48510E895A 1 0 0 0 0 .done)).map (·.asU32Words)
      = some [0xF6597889, 0x85555565, 0x510E895A, 0xE6B53A48] := by decide

/-! ### What the obligations assume can be met: one concrete input for each, at boundary values -/

/-- R83 on a word of CMD. -/
def fieldsOk (w : Word) : Bool :=
  match w.toNat % 16 with
  | 3 => decide (1 ≤ w.toNat / 16 % 16 ∧ w.toNat / 16 % 16 ≤ 3 ∧ w.toNat / 256 % 64 = 0)
  | 7 => decide (1 ≤ w.toNat / 16 % 16 ∧ w.toNat / 16 % 16 ≤ 15 ∧ w.toNat / 256 % 64 = 0)
  | 9 => decide (w.toNat / 16 % 16 = 0 ∧ 1 ≤ w.toNat / 256 % 64 ∧ w.toNat / 256 % 64 ≤ 31)
  | 10 => decide (w.toNat / 16 % 16 = 0 ∧ 1 ≤ w.toNat / 256 % 64 ∧ w.toNat / 256 % 64 ≤ 63)
  | _ => decide (w.toNat / 16 % 16 = 0 ∧ w.toNat / 256 % 64 = 0)

theorem test_witness_DecodedWordIsTheEncodedWord : decode 0x000000F7 = .ok (.tail128 15) := by decide

theorem test_witness_DecoderRejectsWordsOutsideTheTableMasks :
    (([0x0D, 0x0E, 0xFFFFCFFE] : List Word).all fun w => decode w = .error .illegalOp) ∧
    (([0x4000, 0x80000003, 0x10, 0xF9, 0x1F, 0x100, 0x3F03, 0x107] : List Word).all
      fun w => decode w = .error .badField) ∧
    (([0x03, 0xF7, 0x09, 0x3F0A] : List Word).all fun w => (decode w).isOk) := by decide

theorem test_witness_StepRunsTheDecodedCommand :
    (State.reset.withFetchWord 32 0x33).pending = [.write 0x04 .four 0x33] ∧ decode 0x33 = .ok (.tail32 3) := by decide

theorem test_witness_CommandWriteMakesTheChecksInOrder :
    ([0x0D, 0x0E].all fun w => (afterWord State.reset w).map (·.errCode) = some 1) ∧
    (([0x03, 0x43, 0x07, 0x107, 0x09, 0x2009, 0x0A, 0x3FFA, 0x100, 0x1F] : List Word).all fun w => !fieldsOk w) ∧
    (([0x13, 0x33, 0x17, 0xF7, 0x109, 0x1F09, 0x10A, 0x3F0A, 0x00, 0x0F] : List Word).all fieldsOk) ∧
    ([0x02, 0x33, 0x04, 0x06, 0xF7, 0x08].all fun w => (afterWord State.reset w).map (·.errCode) = some 3) ∧
    (afterWord (blockU32 0 0 0 .done) 0x04).map (·.errCode) = some 3 ∧
    (afterWord (blockU32 0 0 0 .tailed) 0x04).map (·.errCode) = some 0 ∧
    (afterWord (blockU128 0 0 0 0 0 0 0 .done) 0x08).map (·.errCode) = some 3 ∧
    (afterWord (blockU128 0 0 0 0 0 0 0 .absorb) 0x08).map (·.errCode) = some 0 := by decide

theorem test_witness_EveryPendingEventHasAStep :
    (State.reset.withFetchWord 32 0x0D).pending = .write 0x04 .four 0x0D :: [] := by decide

theorem test_witness_NoStepWithoutAnEvent : State.reset.pending = [] := by decide

/-- For each command without an operand field, a word of its opcode that is not its word. -/
theorem test_witness_bad_words_without_operand :
    ∀ p ∈ ([(0, 0x10), (15, 0x400F), (1, 0x101), (2, 0x80000002), (4, 0x14), (5, 0x3F05), (6, 0xF6), (8, 0x108),
      (11, 0x1B), (12, 0x400C)] : List (Nat × Word)), p.2.toNat % 16 = p.1 ∧ p.2 ≠ BitVec.ofNat 32 p.1 := by decide

theorem test_witness_Block32AbsorbsTheBlock :
    (blockU32 0 0 1 .absorb).phase32 = .absorb ∧ (blockU32 0 0 1 .idle).phase32 ≠ .absorb := by decide

theorem test_witness_Tail32FoldsTheLowBytes :
    (∀ cnt ∈ ([1, 3] : List (BitVec 4)), 1 ≤ cnt.toNat ∧ cnt.toNat ≤ 3) ∧ (0 : BitVec 4).toNat = 0 ∧
    4 ≤ (4 : BitVec 4).toNat ∧ (blockU32 0 0 1 .absorb).phase32 = .absorb ∧
    (blockU32 0 0 1 .done).phase32 ≠ .absorb ∧
    (0x103 : Word).toNat % 16 = 3 ∧ (0x103 : Word).toNat / 256 ≠ 0 := by decide

theorem test_witness_Final32GivesTheAvalanche :
    (blockU32 0 0 1 .absorb).phase32 = .absorb ∧ (blockU32 0 0 1 .tailed).phase32 = .tailed ∧
    State.reset.phase32 = .idle ∧ (blockU32 0 0 1 .done).phase32 = .done := by decide

theorem test_witness_Block128AbsorbsTheBlock :
    (blockU128 0 0 0 1 2 3 4 .absorb).phase128 = .absorb ∧ (blockU128 0 0 0 1 2 3 4 .tailed).phase128 ≠ .absorb := by
  decide

theorem test_witness_Tail128FoldsTheLowBytes :
    (∀ cnt ∈ ([1, 8, 9, 15] : List (BitVec 4)), 1 ≤ cnt.toNat) ∧ (0 : BitVec 4).toNat = 0 ∧
    (blockU128 0 0 0 1 2 3 4 .absorb).phase128 = .absorb ∧ State.reset.phase128 ≠ .absorb ∧
    (0x107 : Word).toNat % 16 = 7 ∧ (0x107 : Word).toNat / 256 ≠ 0 := by decide

theorem test_witness_Final128GivesTheAvalanche :
    (∀ h : DWord, ∃ a b c d : DWord, a = h ^^^ (h >>> 33) ∧ b = a * 0xff51afd7ed558ccd ∧ c = b ^^^ (b >>> 33) ∧
      d = c * 0xc4ceb9fe1a85ec53 ∧ fmix64 h = d ^^^ (d >>> 33)) ∧
    (blockU128 0 0 0 1 2 3 4 .absorb).phase128 = .absorb ∧ (blockU128 0 0 0 1 2 3 4 .tailed).phase128 = .tailed ∧
    State.reset.phase128 = .idle ∧ (blockU128 0 0 0 1 2 3 4 .done).phase128 = .done :=
  ⟨fun _ => ⟨_, _, _, _, rfl, rfl, rfl, rfl, rfl⟩, rfl, rfl, rfl, rfl⟩

theorem test_witness_Rotl32RotatesTheLowHalf :
    (∀ rot ∈ ([1, 31] : List (BitVec 6)), 1 ≤ rot.toNat ∧ rot.toNat ≤ 31) ∧ (0 : BitVec 6).toNat = 0 ∧
    32 ≤ (32 : BitVec 6).toNat ∧ (0x119 : Word).toNat % 16 = 9 ∧ (0x119 : Word).toNat / 16 % 16 ≠ 0 ∧
    (0x4109 : Word).toNat / 16384 ≠ 0 := by decide

theorem test_witness_Rotl64RotatesTheWhole :
    (∀ rot ∈ ([1, 63] : List (BitVec 6)), 1 ≤ rot.toNat) ∧ (0 : BitVec 6).toNat = 0 ∧
    (0x11A : Word).toNat % 16 = 10 ∧ (0x11A : Word).toNat / 16 % 16 ≠ 0 ∧
    (0x410A : Word).toNat / 16384 ≠ 0 := by decide

/-- R100 at its bounds; the example of R100. -/
theorem test_witness_Rotl32MovesEveryBit : 0 < 1 ∧ 31 < 32 ∧
    (rotl32 0x80000001 1).getLsbD ((31 + 1) % 32) = true ∧ rotl32 0x12345678 8 = 0x34567812 := by decide

theorem test_witness_Rotl64MovesEveryBit : 0 < 1 ∧ 63 < 64 ∧
    (rotl64 0x8000000000000000 1).getLsbD ((63 + 1) % 64) = true ∧ rotl64 1 63 = 0x8000000000000000 := by decide

theorem test_witness_PrimitivesObeyTheirLaws : 0 < 1 ∧ 31 < 32 ∧ 0 < 15 + 16 ∧ 15 + 16 < 32 ∧
    rotl32 (rotl32 0x12345678 15) 16 = rotl32 0x12345678 31 := by decide

theorem test_witness_TailsIgnoreTheBytesAboveTheCount :
    (∀ j, j < (1 : BitVec 4).toNat → j < 4 →
      (blockU32 0 0 0xFFFFFF61 .absorb).din32.toNat / 256 ^ j % 256 = (0x61 : Word).toNat / 256 ^ j % 256) ∧
    (∃ t, exec (.tail32 1) (blockU32 0 0 0xFFFFFF61 .absorb) = .next t) ∧
    (∀ j, j < (15 : BitVec 4).toNat → inputByte128 (blockU128 0 0 0 1 2 3 0xFF000004 .absorb) j
      = inputByte128 (blockU128 0 0 0 1 2 3 4 .absorb) j) ∧
    ∃ t, exec (.tail128 15) (blockU128 0 0 0 1 2 3 4 .absorb) = .next t :=
  ⟨by decide, ⟨_, rfl⟩, by decide, ⟨_, rfl⟩⟩

theorem test_witness_SequenceIsRaisedExactlyOutOfPhase :
    State.reset.err = false ∧ (Instr.tail32 3).wellFormed = true ∧ (Instr.tail128 15).wellFormed = true := by decide

theorem test_witness_ErrorIsRecordedOnceUntilCleared :
    (∃ t, stepOf (.read 0x0C .four) (raised 3 State.reset) = .next t ∧ t.errCode = 3) ∧
    raises (.read 0x0C .four) (raised 3 State.reset) 4 ∧
    (∃ t, stepOf (commandWrite 0x0F) (raised 3 State.reset) = .next t ∧ t.err = false ∧
      (raised 3 State.reset).err = true) ∧ commandOf (commandWrite 0x0F) = some .clrerr ∧
    ∃ t, stepOf (.write 0x11 .four 5) State.reset = .next t ∧ t.err ≠ State.reset.err :=
  ⟨⟨_, rfl, rfl⟩, ⟨_, rfl, rfl, rfl⟩, ⟨_, rfl, rfl, rfl⟩, rfl, _, rfl, by decide⟩

theorem test_witness_ErrorsArePrecise :
    raises (commandWrite 0x0D) State.reset 1 ∧ raises (commandWrite 0x10) State.reset 2 ∧
    raises (commandWrite 0x02) State.reset 3 ∧ raises (.read 0xFC .four) State.reset 4 :=
  ⟨⟨_, rfl, rfl, rfl⟩, ⟨_, rfl, rfl, rfl⟩, ⟨_, rfl, rfl, rfl⟩, ⟨_, rfl, rfl, rfl⟩⟩

theorem test_witness_ErrorsDoNotBlock : ∃ t, stepOf (commandWrite 0x01) State.reset = .next t := ⟨_, rfl⟩

theorem test_witness_ErrorFieldsStayConsistent :
    errorFieldsOk (State.reset.withFetchWord 32 0x0D) ∧ ∃ t, step (State.reset.withFetchWord 32 0x0D) = .next t ∧
      t.err = true := ⟨by decide, _, rfl, rfl⟩

/-- The ends of the list of offsets, and one between. -/
theorem test_witness_ReadsGiveTheMappedValues :
    (afterEvent { State.reset with py := 0x1234567800000000 } (.read 0x6C .four)).map (·.answer)
      = some (some ⟨0x12345678, false⟩) ∧
    (afterEvent { State.reset with h1 := 5 } (.read 0x40 .four)).map (·.answer) = some (some ⟨5, false⟩) := by decide

/-- Every clause at the ends of its ranges. -/
theorem test_witness_BusErrorsExactlyOnIllegalAccesses :
    (∀ off ∈ ([0x02, 0x0C, 0x24, 0x2C, 0x58, 0x5C, 0x70, 0xFC] : List Offset),
      (afterEvent State.reset (.read off .four)).map (·.answer) = some (some ⟨0, true⟩)) ∧
    (∀ off ∈ ([0x00, 0x08, 0x10, 0x20, 0x30, 0x54, 0x60, 0x6C] : List Offset),
      (afterEvent State.reset (.read off .four)).bind (fun t => t.answer.map (·.berr)) = some false) ∧
    (∀ off ∈ ([0x00, 0x08, 0x0C, 0x18, 0x1C, 0x40, 0x54, 0x68, 0x6C, 0x70] : List Offset),
      (afterEvent State.reset (.write off .four 1)).map (·.answer) = some (some ⟨0, true⟩)) ∧
    (∀ off ∈ ([0x04, 0x10, 0x14, 0x20, 0x30, 0x3C, 0x60, 0x64] : List Offset),
      (afterEvent State.reset (.write off .four 1)).map (·.answer) = some (some ⟨0, false⟩)) := by decide

theorem test_witness_U32CommandsKeepTheirFrame :
    (∃ t, exec .block32 (blockU32 1 2 3 .absorb) = .next t) ∧ (∃ t, exec .init32 State.reset = .next t) ∧
    (∃ t, exec (.tail32 0) State.reset = .next t) ∧ (∃ t, exec .final32 State.reset = .next t) ∧
    ¬ (0x08 ≤ (0x0C : Offset).toNat ∧ (0x0C : Offset).toNat < 0x0C) ∧
    ¬ (0x18 ≤ (0x20 : Offset).toNat ∧ (0x20 : Offset).toNat < 0x20) :=
  ⟨⟨_, rfl⟩, ⟨_, rfl⟩, ⟨_, rfl⟩, ⟨_, rfl⟩, by decide, by decide⟩

theorem test_witness_U128CommandsKeepTheirFrame :
    (∃ t, exec .block128 (blockU128 1 2 3 4 5 6 7 .absorb) = .next t) ∧
    (∃ t, exec .init128 State.reset = .next t) ∧
    (∃ t, exec (.tail128 15) State.reset = .next t) ∧ (∃ t, exec .final128 State.reset = .next t) ∧
    ¬ (0x40 ≤ (0x58 : Offset).toNat ∧ (0x58 : Offset).toNat < 0x58) ∧
    ¬ (0x40 ≤ (0x3F : Offset).toNat ∧ (0x3F : Offset).toNat < 0x58) :=
  ⟨⟨_, rfl⟩, ⟨_, rfl⟩, ⟨_, rfl⟩, ⟨_, rfl⟩, by decide, by decide⟩

theorem test_witness_PrimitiveAndControlCommandsKeepTheirFrame :
    (∃ t, exec .nop State.reset = .next t) ∧ (∃ t, exec .clrerr State.reset = .next t) ∧
    (∃ t, exec (.rotl32 32) State.reset = .next t) ∧ (∃ t, exec (.rotl64 63) State.reset = .next t) ∧
    (∃ t, exec .fmix32 State.reset = .next t) ∧ (∃ t, exec .fmix64 State.reset = .next t) ∧
    ¬ (0x68 ≤ (0x70 : Offset).toNat ∧ (0x70 : Offset).toNat < 0x70) :=
  ⟨⟨_, rfl⟩, ⟨_, rfl⟩, ⟨_, rfl⟩, ⟨_, rfl⟩, ⟨_, rfl⟩, ⟨_, rfl⟩, by decide⟩

theorem test_witness_UnitsAreIndependent :
    viewU32 (blockP 5) = viewU32 State.reset ∧ viewP (blockU32 1 2 3 .done) = viewP State.reset ∧
    viewU128 (blockP 5) = viewU128 State.reset ∧ (∃ t, stepOf (commandWrite 0x01) (blockP 5) = .next t) ∧
    ∃ t, stepOf (commandWrite 0x01) State.reset = .next t := ⟨rfl, rfl, rfl, ⟨_, rfl⟩, ⟨_, rfl⟩⟩

theorem test_witness_OperandsAreSampledOnlyByTheirCommands :
    (∃ t, stepOf (commandWrite 0x00) (blockP 5) = .next t) ∧
    (∃ t, stepOf (commandWrite 0x00) State.reset = .next t) ∧
    blockP 5 = { State.reset with px := (blockP 5).px } ∧
    commandOf (commandWrite 0x00) = some .nop ∧ isPCommand .nop = false :=
  ⟨⟨_, rfl⟩, ⟨_, rfl⟩, rfl, rfl, rfl⟩

theorem test_witness_ResultsChangeOnlyByTheirCommands :
    (afterWord (blockU32 0 0 1 .absorb) 0x02).map (fun t => (decide (t.h32 ≠ 0), decide (t.len32 ≠ 0)))
      = some (true, true) ∧
    (afterWord (blockU128 0 0 0 1 0 0 0 .absorb) 0x06).map (fun t => decide (t.h1 ≠ 0)) = some true ∧
    (afterWord (blockP 1) 0x109).map (fun t => decide (t.py ≠ 0)) = some true ∧
    commandOf (commandWrite 0x0B) = some .fmix32 ∧ commandOf (commandWrite 0x1F09) = some (.rotl32 31) := by decide

theorem test_witness_PhasesMoveOnlyAsTheTableHasIt :
    (afterWord (blockU32 0 0 0 .absorb) 0x13).map (·.phase32) = some .tailed ∧
    (afterWord (blockU128 0 0 0 0 0 0 0 .tailed) 0x08).map (·.phase128) = some .done := by decide

theorem test_witness_ResetEventSetsEveryRegister :
    State.reset = { State.reset with pending := State.reset.pending } ∧ 1 ≤ (15 : BitVec 4).toNat ∧
    1 ≤ (3 : BitVec 4).toNat ∧ (3 : BitVec 4).toNat ≤ 3 := by decide

theorem test_witness_Digests :
    (blockU32 7 0 0 .done).phase32 = .done ∧ (blockU32 7 0 0 .tailed).phase32 ≠ .done ∧
    (blockU128 7 8 0 0 0 0 0 .done).phase128 = .done ∧ State.reset.phase128 ≠ .done ∧
    (digest32 (blockU32 7 0 0 .done)).isSome = true ∧ (digest128 (blockU128 7 8 0 0 0 0 0 .done)).isSome = true := by
  decide

/-- The canonical sequence of one byte with accesses of another host between, one of them a bus error. -/
theorem test_witness_InterleavedSequence32ComputesHash32 :
    [wr .seed32 0, .read 0x0C .four, cmd .init32, cmd .init128, wr .din32 0x61, wr .px_lo 3, cmd (.tail32 1),
      cmd .final32, rd .h32].filter touchesU32 = hashAccesses32 [0x61] 0 := by decide

theorem test_witness_InterleavedSequence128ComputesHash128 :
    ([wr .seed128 0, cmd .clrerr, cmd .init128] ++ ld128 [0x61] 0 ++
      [wr .din32 5, cmd (.tail128 1), cmd .block32, cmd .final128]).filter touchesU128 = hashAccesses128 [0x61] 0 := by
  decide

theorem test_witness_U32HoldsTheHashOfWhatWasDelivered :
    ({ blockU32 0 0 0x64636261 .absorb with pending := [cmd .block32] } : State).pending = cmd .block32 :: [] ∧
    holds32 (some ⟨0, []⟩) { blockU32 0 0 0x64636261 .absorb with pending := [cmd .block32] } ∧
    ∃ t, step { blockU32 0 0 0x64636261 .absorb with pending := [cmd .block32] } = .next t :=
  ⟨rfl, ⟨by decide, by decide, by decide⟩, _, rfl⟩

theorem test_witness_U128HoldsTheHashOfWhatWasDelivered :
    ({ blockU128 0 0 0 1 2 3 4 .absorb with pending := [cmd .block128] } : State).pending = cmd .block128 :: [] ∧
    holds128 (some ⟨0, []⟩) { blockU128 0 0 0 1 2 3 4 .absorb with pending := [cmd .block128] } ∧
    ∃ t, step { blockU128 0 0 0 1 2 3 4 .absorb with pending := [cmd .block128] } = .next t :=
  ⟨rfl, ⟨by decide, by decide, by decide⟩, _, rfl⟩

/-- A run from reset that ends with both units in DONE: INIT and FINAL of each. -/
theorem test_witness_EveryDigestIsTheHashOfTheDeliveredKey :
    State.reset.phase32 = .idle ∧ State.reset.phase128 = .idle ∧
    (final (Host.Core.run Sys2Proof.core 4
      { State.reset with pending := [cmd .init32, cmd .init128, cmd .final32, cmd .final128] })).map
      (fun t => (t.phase32, t.phase128)) = some (.done, .done) := by decide

end Sys2Proof.Tests.Slice0
end

section
/-! SUPPORT. What one event does to the block, said once and for every state together (20_memory.md R52,
70_reset_and_hazards.md R230): which of the five effects it has is settled by the event alone. -/

namespace Sys2Proof.Proofs

open Sys2Proof Sys2Proof.Machine Sys2Proof.Safety Sys2Proof.Laws

/-! ### The command an event brings -/

theorem commandOf_write_cmd {w : Word} {i : Instr} (hd : decode w = .ok i) :
    commandOf (.write 0x04 .four w) = some i := by
  simp [commandOf, hd]

theorem commandOf_write_rejected {w : Word} {r : DecodeReject} (hd : decode w = .error r) :
    commandOf (.write 0x04 .four w) = none := by
  simp [commandOf, hd]

/-- A write that is misaligned, too narrow or at another register than CMD brings no command (R80). -/
theorem commandOf_write_elsewhere {off : Offset} {size : AccessSize} {w : Word}
    (h : wordAligned off size = false ∨ regAt off ≠ some .cmd) : commandOf (.write off size w) = none := by
  have hne : ¬ (off = 0x04 ∧ size = .four) := by
    rintro ⟨rfl, rfl⟩
    rcases h with h | h
    · exact absurd h (by decide)
    · exact h regAt_cmd
  simp only [commandOf, if_neg hne]

/-! ### Which registers a store can reach does not depend on the state (R51) -/

theorem writeReg_eq_none_of {r : Reg} {v : Word} {s : State} (s' : State) (h : writeReg r v s = none) :
    writeReg r v s' = none := by
  cases r <;> simp_all [writeReg]

theorem writeReg_eq_some_of {r : Reg} {v : Word} {s u : State} (s' : State) (h : writeReg r v s = some u) :
    ∃ u', writeReg r v s' = some u' := by
  cases h' : writeReg r v s' with
  | none => rw [writeReg_eq_none_of s h'] at h; cases h
  | some u' => exact ⟨u', rfl⟩

theorem ne_cmd_of_writeReg {r : Reg} {v : Word} {s u : State} (h : writeReg r v s = some u) : r ≠ .cmd := by
  rintro rfl
  cases h

/-! ### The effect of an event -/

/-- The event is neither a reset nor a command that decodes. -/
def Quiet (e : HostEvent) : Prop := e ≠ .reset ∧ commandOf e = none

/-- The five effects an event can have, each for all states at once: a reset, a command performed, a legal read, a
store to a read-write register, or an error recorded. -/
inductive EventEffect (e : HostEvent) : Prop where
  | reset (he : e = .reset) (h : ∀ s, perform e s = .next (resetBlock s))
  | command (i : Instr) (hc : commandOf e = some i)
      (h : ∀ s u, exec i s = .next u → perform e s = .next (respond 0 false u))
  | read (r : Reg) (hq : Quiet e) (h : ∀ s, perform e s = .next (respond (readReg r s) false s))
  | store (r : Reg) (v : Word) (hq : Quiet e)
      (h : ∀ s, ∃ u, writeReg r v s = some u ∧ perform e s = .next (respond 0 false u))
  | error (k : ErrorKind) (b : Bool) (hq : Quiet e) (h : ∀ s, perform e s = .next (respond 0 b (recordError k s)))

/-- Every event has one of the five effects: the case it takes on one state is the case it takes on all. -/
theorem eventEffect (e : HostEvent) : EventEffect e := by
  obtain ⟨t, ht⟩ := perform_answers_next e State.reset
  cases perform_cases ht with
  | reset _ => exact .reset rfl fun _ => rfl
  | read r _ => exact .read r ⟨by simp, rfl⟩ (perform_read r)
  | store r v u hw _ =>
    refine .store r v ⟨by simp, commandOf_write_elsewhere (.inr ?_)⟩ fun s => ?_
    · simpa using ne_cmd_of_writeReg hw
    · obtain ⟨u', hw'⟩ := writeReg_eq_some_of s hw
      exact ⟨u', hw', perform_store hw'⟩
  | command w i u hd _ _ => exact .command i (commandOf_write_cmd hd) fun _ _ hx => perform_command hd hx
  | rejected w r hd _ => exact .error _ false ⟨by simp, commandOf_write_rejected hd⟩ fun s => perform_rejected s hd
  | busErrorRead off size hb _ => exact .error .bus true ⟨by simp, rfl⟩ fun s => perform_bad_read s hb
  | busErrorWrite off size v hb _ =>
    refine .error .bus true ⟨by simp, commandOf_write_elsewhere ?_⟩ fun s => perform_bad_write s ?_
    · rcases hb with hb | hb | ⟨r, hr, hb, -⟩
      · exact .inl hb
      · simp [hb]
      · simp [hb, hr]
    · rcases hb with hb | hb | ⟨r, hr, hb, hw⟩
      · exact .inl hb
      · exact .inr (.inl hb)
      · exact .inr (.inr ⟨r, hr, hb, writeReg_eq_none_of s hw⟩)

/-- The event that brings a command performs it and answers `(0, 0)` (R23, R52). -/
theorem perform_of_commandOf {e : HostEvent} {i : Instr} {s t : State} (hc : commandOf e = some i)
    (h : perform e s = .next t) : ∃ u, exec i s = .next u ∧ t = respond 0 false u := by
  cases eventEffect e with
  | reset he _ => subst he; cases hc
  | command j hj hp =>
    obtain rfl : j = i := Option.some.inj (hj.symm.trans hc)
    obtain ⟨u, hu⟩ := exec_answers_next j s
    rw [hp s u hu] at h
    exact ⟨u, hu, (Host.Outcome.next.inj h).symm⟩
  | read _ hq _ => rw [hq.2] at hc; cases hc
  | store _ _ hq _ => rw [hq.2] at hc; cases hc
  | error _ _ hq _ => rw [hq.2] at hc; cases hc

/-- A store leaves the error fields alone (R59). -/
theorem writeReg_error_fields {r : Reg} {v : Word} {s u : State} (h : writeReg r v s = some u) :
    u.err = s.err ∧ u.errCode = s.errCode := by
  cases r <;> cases h <;> exact ⟨rfl, rfl⟩

end Sys2Proof.Proofs
end

section
/-! The error fields: the rule of R38 on every event, and the invariant of ERR and ERRCODE. -/

namespace Sys2Proof.Proofs

open Sys2Proof Sys2Proof.Machine Sys2Proof.Safety Sys2Proof.Laws

@[simp] theorem raised_err (c : BitVec 4) (s : State) : (raised c s).err = true := rfl
@[simp] theorem raised_errCode (c : BitVec 4) (s : State) :
    (raised c s).errCode = if s.err then s.errCode else c := rfl

/-- The block with ERR and ERRCODE cleared tells whether an event raises, and which code. -/
theorem raises_iff {e : HostEvent} {s u : State} {c : BitVec 4}
    (h : perform e { s with err := false, errCode := 0 } = .next u) :
    raises e s c ↔ u.err = true ∧ u.errCode = c := by
  simp only [raises, stepOf_eq_perform, h, Host.Outcome.next.injEq, exists_eq_left']

theorem not_raises_of_err_false {e : HostEvent} {s u : State}
    (h : perform e { s with err := false, errCode := 0 } = .next u) (hu : u.err = false) (c : BitVec 4) :
    ¬ raises e s c := by
  simp [raises_iff h, hu]

/-- The event clears the error fields: reset, or CLRERR (R38). -/
def Clears (e : HostEvent) : Prop := e = .reset ∨ commandOf e = some .clrerr

theorem Quiet.not_clears {e : HostEvent} (h : Quiet e) : ¬ Clears e := by
  simp [Clears, h.1, h.2]

/-- Everything an event can do to ERR and ERRCODE (R38): clear them, record the one code it raises unless ERR is 1
already, or leave them. -/
inductive ErrorEffect (e : HostEvent) (s t : State) : Prop where
  | clears (hc : Clears e) (hr : ∀ c, ¬ raises e s c) (ht : t.err = false ∧ t.errCode = 0)
  | records (c : BitVec 4) (hc : ¬ Clears e) (hr : ∀ c', raises e s c' ↔ c = c') (hk : c ≠ 0 ∧ c.toNat ≤ 4)
      (ht : t.err = true ∧ t.errCode = if s.err then s.errCode else c)
  | keeps (hc : ¬ Clears e) (hr : ∀ c, ¬ raises e s c) (ht : t.err = s.err ∧ t.errCode = s.errCode)

theorem errorCode_range (k : ErrorKind) : errorCode k ≠ 0 ∧ (errorCode k).toNat ≤ 4 := by
  cases k <;> decide

/-- The rule of R38 on the event of a command. -/
theorem errorEffect_of_command {e : HostEvent} {i : Instr} (s : State) {u : State} (hc : commandOf e = some i)
    (hp : ∀ s u, exec i s = .next u → perform e s = .next (respond 0 false u)) (hu : exec i s = .next u) :
    ErrorEffect e s (respond 0 false u) := by
  have hclears : Clears e ↔ i = .clrerr := by
    have : e ≠ .reset := by rintro rfl; cases hc
    simp [Clears, hc, this]
  rcases exec_error_cases hu with ⟨c, hk, rfl, hi, hx⟩ | ⟨rfl, rfl⟩ | ⟨hi, herr, hcode, hx⟩
  · refine .records c (mt hclears.1 hi) (fun c' => ?_) (by rcases hk with rfl | rfl <;> decide) (by simp)
    rw [raises_iff (hp _ _ (hx false 0))]
    simp
  · have h0 := hp _ _ (exec_clrerr { s with err := false, errCode := 0 })
    exact .clears (hclears.2 rfl) (not_raises_of_err_false h0 rfl) (by simp)
  · have h0 := hp _ _ (hx false 0)
    exact .keeps (mt hclears.1 hi) (not_raises_of_err_false h0 rfl) (by simp [herr, hcode])

/-- The rule of R38 on every event. -/
theorem errorEffect {e : HostEvent} {s t : State} (h : perform e s = .next t) : ErrorEffect e s t := by
  cases eventEffect e with
  | reset he hp =>
    rw [hp] at h; cases h
    exact .clears (.inl he) (not_raises_of_err_false (hp _) rfl) (by simp)
  | command i hc hp =>
    obtain ⟨u, hu, rfl⟩ := perform_of_commandOf hc h
    exact errorEffect_of_command s hc hp hu
  | read r hq hp =>
    rw [hp] at h; cases h
    exact .keeps hq.not_clears (not_raises_of_err_false (hp _) (by simp)) (by simp)
  | store r v hq hp =>
    obtain ⟨u, hw, hu⟩ := hp s
    obtain ⟨u', hw', hu'⟩ := hp { s with err := false, errCode := 0 }
    rw [hu] at h; cases h
    exact .keeps hq.not_clears (not_raises_of_err_false hu' (by simp [writeReg_error_fields hw']))
      (by simp [writeReg_error_fields hw])
  | error k b hq hp =>
    rw [hp] at h; cases h
    refine .records (errorCode k) hq.not_clears (fun c' => ?_) (errorCode_range k) (by simp)
    rw [raises_iff (hp _)]
    simp

/-- Recording a nonzero code of R200 by the rule of R38 keeps the error fields consistent. -/
theorem errorFieldsOk_of_recorded {s t : State} {c : BitVec 4} (hs : errorFieldsOk s) (hk : c ≠ 0 ∧ c.toNat ≤ 4)
    (ht : t.err = true ∧ t.errCode = if s.err then s.errCode else c) : errorFieldsOk t := by
  obtain ⟨hiff, hle⟩ := hs
  obtain ⟨hc0, hc4⟩ := hk
  obtain ⟨herr, hcode⟩ := ht
  cases hs' : s.err with
  | false => simp_all [errorFieldsOk]
  | true => simp_all [errorFieldsOk]

/-- Every event keeps the error fields consistent (R24, R200). -/
theorem perform_errorFieldsOk {e : HostEvent} {s t : State} (hs : errorFieldsOk s) (h : perform e s = .next t) :
    errorFieldsOk t := by
  cases errorEffect h with
  | clears _ _ ht => simp [errorFieldsOk, ht]
  | records c _ _ hk ht => exact errorFieldsOk_of_recorded hs hk ht
  | keeps _ _ ht => rwa [errorFieldsOk, ht.1, ht.2]

/-- Settles O31: a step performs one event on the state with that event taken off, and every event keeps the error
fields consistent. -/
theorem errorFieldsStayConsistent : Obligations.ErrorFieldsStayConsistent := by
  intro s t hs h
  obtain ⟨e, rest, hp, -⟩ := step_cases h
  rw [step_of_pending hp] at h
  exact perform_errorFieldsOk (s := { s with pending := rest }) hs h

/-- Settles O28: each clause is read off the three things an event can do to the error fields. -/
theorem errorIsRecordedOnceUntilCleared : Obligations.ErrorIsRecordedOnceUntilCleared := by
  intro e s t h
  rw [stepOf_eq_perform] at h
  cases errorEffect h with
  | clears hc hr ht =>
    exact ⟨fun c hrc => absurd hrc (hr c), fun _ => ht, fun _ _ => hc, fun _ => .inr hc⟩
  | records c hc hr _ ht =>
    refine ⟨fun c' hrc => ?_, fun hcl => absurd hcl hc, fun _ hf => by simp [ht] at hf, fun _ => .inl ⟨c, (hr c).2 rfl⟩⟩
    rwa [← (hr c').1 hrc]
  | keeps hc hr ht =>
    refine ⟨fun c hrc => absurd hrc (hr c), fun hcl => absurd hcl hc, fun hs hf => ?_, fun hne => ?_⟩
    · rw [ht.1, hs] at hf; cases hf
    · simp [ht] at hne

end Sys2Proof.Proofs
end

section
/-! The frames of the commands (10_state.md R41): which registers a command may write, and the window around them. -/

namespace Sys2Proof.Proofs

open Sys2Proof Sys2Proof.Machine Sys2Proof.Safety Sys2Proof.Laws

/-! ### The view of a unit under the shared operations -/

@[simp] theorem viewU32_recordError (k : ErrorKind) (s : State) : viewU32 (recordError k s) = viewU32 s := by
  simp [viewU32]
@[simp] theorem viewU32_clearError (s : State) : viewU32 (clearError s) = viewU32 s := by simp [viewU32]
@[simp] theorem viewU32_respond (v : Word) (b : Bool) (s : State) : viewU32 (respond v b s) = viewU32 s := by
  simp [viewU32]
@[simp] theorem viewU32_setU128 (a b n : DWord) (p : Phase) (s : State) :
    viewU32 (setU128 a b n p s) = viewU32 s := by
  simp [viewU32]
@[simp] theorem viewU32_setPY (v : DWord) (s : State) : viewU32 (setPY v s) = viewU32 s := by simp [viewU32]

@[simp] theorem viewU128_recordError (k : ErrorKind) (s : State) : viewU128 (recordError k s) = viewU128 s := by
  simp [viewU128]
@[simp] theorem viewU128_clearError (s : State) : viewU128 (clearError s) = viewU128 s := by simp [viewU128]
@[simp] theorem viewU128_respond (v : Word) (b : Bool) (s : State) : viewU128 (respond v b s) = viewU128 s := by
  simp [viewU128]
@[simp] theorem viewU128_setU32 (h n : Word) (p : Phase) (s : State) :
    viewU128 (setU32 h n p s) = viewU128 s := by
  simp [viewU128]
@[simp] theorem viewU128_setPY (v : DWord) (s : State) : viewU128 (setPY v s) = viewU128 s := by simp [viewU128]

@[simp] theorem viewP_recordError (k : ErrorKind) (s : State) : viewP (recordError k s) = viewP s := by simp [viewP]
@[simp] theorem viewP_clearError (s : State) : viewP (clearError s) = viewP s := by simp [viewP]
@[simp] theorem viewP_respond (v : Word) (b : Bool) (s : State) : viewP (respond v b s) = viewP s := by simp [viewP]
@[simp] theorem viewP_setU32 (h n : Word) (p : Phase) (s : State) : viewP (setU32 h n p s) = viewP s := by
  simp [viewP]
@[simp] theorem viewP_setU128 (a b n : DWord) (p : Phase) (s : State) : viewP (setU128 a b n p s) = viewP s := by
  simp [viewP]

/-! ### What a command writes -/

/-- What a command writes, by unit (R41): the error fields when it raises, else the accumulator, counter and phase of
its own unit, or PY; NOP writes nothing and CLRERR the error fields. -/
inductive WriteCase (i : Instr) (s t : State) : Prop where
  | raises (hi : i ≠ .nop ∧ i ≠ .clrerr ∧ i ≠ .fmix32 ∧ i ≠ .fmix64) (k : ErrorKind) (ht : t = recordError k s)
  | u32 (hi : isU32Command i = true) (h n : Word) (p : Phase) (hb : i = .block32 → p = s.phase32)
      (hf : i = .final32 → n = s.len32) (ht : t = setU32 h n p s)
  | u128 (hi : isU128Command i = true) (a b n : DWord) (p : Phase) (hb : i = .block128 → p = s.phase128)
      (hf : i = .final128 → n = s.len128) (ht : t = setU128 a b n p s)
  | primitive (hi : isPCommand i = true) (v : DWord) (ht : t = setPY v s)
  | nop (hi : i = .nop) (ht : t = s)
  | clrerr (hi : i = .clrerr) (ht : t = clearError s)

theorem exec_writeCase {i : Instr} {s t : State} (h : exec i s = .next t) : WriteCase i s t := by
  cases exec_cases h with
  | raises _ k hi ht =>
    refine .raises ?_ k ht
    rcases hi with ⟨c, rfl⟩ | rfl | rfl | ⟨c, rfl⟩ | rfl | rfl | ⟨r, rfl⟩ | ⟨r, rfl⟩ <;> simp
  | nop ht => exact .nop rfl ht
  | clrerr ht => exact .clrerr rfl ht
  | init32 ht => exact .u32 rfl _ _ _ (by simp) (by simp) ht
  | block32 hp ht => exact .u32 rfl _ _ _ (fun _ => hp.symm) (by simp) ht
  | tail32 c hp hc ht => exact .u32 rfl _ _ _ (by simp) (by simp) ht
  | final32 hp ht => exact .u32 rfl _ _ _ (by simp) (fun _ => rfl) ht
  | init128 ht => exact .u128 rfl _ _ _ _ (by simp) (by simp) ht
  | block128 hp ht => exact .u128 rfl _ _ _ _ (fun _ => hp.symm) (by simp) ht
  | tail128 c hp hc ht => exact .u128 rfl _ _ _ _ (by simp) (by simp) ht
  | final128 hp ht => exact .u128 rfl _ _ _ _ (by simp) (fun _ => rfl) ht
  | rotl32 r hr ht => exact .primitive rfl _ ht
  | rotl64 r hr ht => exact .primitive rfl _ ht
  | fmix32 ht => exact .primitive rfl _ ht
  | fmix64 ht => exact .primitive rfl _ ht

/-- Only the commands of U32 touch U32 (R41). -/
theorem exec_viewU32 {i : Instr} {s t : State} (hi : isU32Command i = false) (h : exec i s = .next t) :
    viewU32 t = viewU32 s := by
  cases exec_writeCase h with
  | u32 hi' => rw [hi] at hi'; cases hi'
  | raises _ _ ht | u128 _ _ _ _ _ _ _ ht | primitive _ _ ht | nop _ ht | clrerr _ ht => simp [ht]

/-- Only the commands of U128 touch U128 (R41). -/
theorem exec_viewU128 {i : Instr} {s t : State} (hi : isU128Command i = false) (h : exec i s = .next t) :
    viewU128 t = viewU128 s := by
  cases exec_writeCase h with
  | u128 hi' => rw [hi] at hi'; cases hi'
  | raises _ _ ht | u32 _ _ _ _ _ _ ht | primitive _ _ ht | nop _ ht | clrerr _ ht => simp [ht]

/-- Only the commands of P touch P (R41). -/
theorem exec_viewP {i : Instr} {s t : State} (hi : isPCommand i = false) (h : exec i s = .next t) :
    viewP t = viewP s := by
  cases exec_writeCase h with
  | primitive hi' => rw [hi] at hi'; cases hi'
  | raises _ _ ht | u32 _ _ _ _ _ _ ht | u128 _ _ _ _ _ _ _ ht | nop _ ht | clrerr _ ht => simp [ht]

/-- The registers that hold operands: SEED32, DIN32; SEED128, DIN128_0..3; PX (R25, R26, R31, R32, R36). -/
def operands (s : State) : (Word × Word) × (Word × Word × Word × Word × Word) × DWord :=
  ((s.seed32, s.din32), (s.seed128, s.din128_0, s.din128_1, s.din128_2, s.din128_3), s.px)

/-- No command writes an operand register (R41). -/
theorem exec_operands {i : Instr} {s t : State} (h : exec i s = .next t) : operands t = operands s := by
  cases exec_writeCase h with
  | raises _ _ ht | u32 _ _ _ _ _ _ ht | u128 _ _ _ _ _ _ _ ht | primitive _ _ ht | nop _ ht | clrerr _ ht =>
    simp [operands, ht]

/-! ### The window outside the registers a command writes -/

/-- A byte outside a register's four belongs to another register (R51). -/
theorem reg_ne_of_outside {r q : Reg} {off : Offset}
    (hr : (regOffset r).toNat ≤ off.toNat ∧ off.toNat < (regOffset r).toNat + 4)
    (hq : ¬ ((regOffset q).toNat ≤ off.toNat ∧ off.toNat < (regOffset q).toNat + 4)) : r ≠ q := by
  rintro rfl
  exact hq hr

/-- Outside STATUS, H32 and LEN32 the window shows U128, P and the operands of U32 alone. -/
theorem windowByte_outside_U32_results {s t : State} {off : Offset} (ho : operands t = operands s)
    (h128 : viewU128 t = viewU128 s) (hP : viewP t = viewP s)
    (hstatus : ¬ (0x08 ≤ off.toNat ∧ off.toNat < 0x0C)) (hout : ¬ (0x18 ≤ off.toNat ∧ off.toNat < 0x20)) :
    windowByte t off = windowByte s off := by
  refine windowByte_congr fun r hr => ?_
  have h1 : r ≠ .status := reg_ne_of_outside hr hstatus
  have h2 : r ≠ .h32 := reg_ne_of_outside hr (by simp [regOffset]; omega)
  have h3 : r ≠ .len32 := reg_ne_of_outside hr (by simp [regOffset]; omega)
  simp only [operands, viewU128, viewP, Prod.mk.injEq] at ho h128 hP
  cases r <;> simp_all [readReg]

/-- Outside STATUS, H1, H2 and LEN128 the window shows U32, P and the operands of U128 alone. -/
theorem windowByte_outside_U128_results {s t : State} {off : Offset} (ho : operands t = operands s)
    (h32 : viewU32 t = viewU32 s) (hP : viewP t = viewP s)
    (hstatus : ¬ (0x08 ≤ off.toNat ∧ off.toNat < 0x0C)) (hout : ¬ (0x40 ≤ off.toNat ∧ off.toNat < 0x58)) :
    windowByte t off = windowByte s off := by
  refine windowByte_congr fun r hr => ?_
  have h1 : r ≠ .status := reg_ne_of_outside hr hstatus
  have h2 : r ≠ .h1_lo := reg_ne_of_outside hr (by simp [regOffset]; omega)
  have h3 : r ≠ .h1_hi := reg_ne_of_outside hr (by simp [regOffset]; omega)
  have h4 : r ≠ .h2_lo := reg_ne_of_outside hr (by simp [regOffset]; omega)
  have h5 : r ≠ .h2_hi := reg_ne_of_outside hr (by simp [regOffset]; omega)
  have h6 : r ≠ .len128_lo := reg_ne_of_outside hr (by simp [regOffset]; omega)
  have h7 : r ≠ .len128_hi := reg_ne_of_outside hr (by simp [regOffset]; omega)
  simp only [operands, viewU32, viewP, Prod.mk.injEq] at ho h32 hP
  cases r <;> simp_all [readReg]

/-- Outside STATUS and PY the window shows U32, U128 and PX alone. -/
theorem windowByte_outside_PY {s t : State} {off : Offset} (ho : operands t = operands s)
    (h32 : viewU32 t = viewU32 s) (h128 : viewU128 t = viewU128 s)
    (hstatus : ¬ (0x08 ≤ off.toNat ∧ off.toNat < 0x0C)) (hout : ¬ (0x68 ≤ off.toNat ∧ off.toNat < 0x70)) :
    windowByte t off = windowByte s off := by
  refine windowByte_congr fun r hr => ?_
  have h1 : r ≠ .status := reg_ne_of_outside hr hstatus
  have h2 : r ≠ .py_lo := reg_ne_of_outside hr (by simp [regOffset]; omega)
  have h3 : r ≠ .py_hi := reg_ne_of_outside hr (by simp [regOffset]; omega)
  simp only [operands, viewU32, viewU128, Prod.mk.injEq] at ho h32 h128
  cases r <;> simp_all [readReg]

/-! ### The commands of one unit are of no other -/

theorem not_U128_P_of_U32 {i : Instr} (h : isU32Command i = true) :
    isU128Command i = false ∧ isPCommand i = false := by
  cases i <;> simp_all [isU32Command, isU128Command, isPCommand]

theorem not_U32_P_of_U128 {i : Instr} (h : isU128Command i = true) :
    isU32Command i = false ∧ isPCommand i = false := by
  cases i <;> simp_all [isU32Command, isU128Command, isPCommand]

/-- What a command of U32 writes: it raises, or it sets H32, LEN32 and PHASE32. -/
theorem exec_U32_cases {i : Instr} {s t : State} (hi : isU32Command i = true) (h : exec i s = .next t) :
    (∃ k, t = recordError k s) ∨
    ∃ a n p, t = setU32 a n p s ∧ (i = .block32 → p = s.phase32) ∧ (i = .final32 → n = s.len32) := by
  obtain ⟨h128, hP⟩ := not_U128_P_of_U32 hi
  cases exec_writeCase h with
  | raises _ k ht => exact .inl ⟨k, ht⟩
  | u32 _ a n p hb hf ht => exact .inr ⟨a, n, p, ht, hb, hf⟩
  | u128 hi' => rw [h128] at hi'; cases hi'
  | primitive hi' => rw [hP] at hi'; cases hi'
  | nop hi' | clrerr hi' => subst hi'; cases hi

/-- What a command of U128 writes: it raises, or it sets H1, H2, LEN128 and PHASE128. -/
theorem exec_U128_cases {i : Instr} {s t : State} (hi : isU128Command i = true) (h : exec i s = .next t) :
    (∃ k, t = recordError k s) ∨
    ∃ a b n p, t = setU128 a b n p s ∧ (i = .block128 → p = s.phase128) ∧ (i = .final128 → n = s.len128) := by
  obtain ⟨h32, hP⟩ := not_U32_P_of_U128 hi
  cases exec_writeCase h with
  | raises _ k ht => exact .inl ⟨k, ht⟩
  | u128 _ a b n p hb hf ht => exact .inr ⟨a, b, n, p, ht, hb, hf⟩
  | u32 hi' => rw [h32] at hi'; cases hi'
  | primitive hi' => rw [hP] at hi'; cases hi'
  | nop hi' | clrerr hi' => subst hi'; cases hi

/-! ### The three frames -/

theorem operands_eq_iff {s t : State} : operands t = operands s ↔
    (t.seed32 = s.seed32 ∧ t.din32 = s.din32) ∧
    (t.seed128 = s.seed128 ∧ t.din128_0 = s.din128_0 ∧ t.din128_1 = s.din128_1 ∧ t.din128_2 = s.din128_2 ∧
      t.din128_3 = s.din128_3) ∧ t.px = s.px := by
  simp [operands]

/-- Settles O40: a command of U32 raises or sets H32, LEN32 and PHASE32; the window follows from the registers. -/
theorem u32CommandsKeepTheirFrame : Obligations.U32CommandsKeepTheirFrame := by
  intro i s t hi h
  have hU : isU32Command i = true := by
    rcases hi with rfl | rfl | ⟨c, rfl⟩ | rfl <;> rfl
  obtain ⟨hno128, hnoP⟩ := not_U128_P_of_U32 hU
  have h128 := exec_viewU128 hno128 h
  have hP := exec_viewP hnoP h
  have ho := exec_operands h
  obtain ⟨⟨hseed, hdin⟩, -, -⟩ := operands_eq_iff.1 ho
  obtain ⟨hpending, hanswer⟩ := exec_pending_answer h
  obtain ⟨hblock, hfinal, herr⟩ : (i = .block32 → t.phase32 = s.phase32) ∧ (i = .final32 → t.len32 = s.len32) ∧
      ((t.err = s.err ∧ t.errCode = s.errCode) ∨ viewU32 t = viewU32 s) := by
    rcases exec_U32_cases hU h with ⟨k, rfl⟩ | ⟨a, n, p, rfl, hb, hf⟩
    · simp
    · simpa using ⟨hb, hf⟩
  exact ⟨hseed, hdin, h128, hP, hblock, hfinal, herr, hpending, hanswer,
    fun _ => windowByte_outside_U32_results ho h128 hP⟩

/-- Settles O41: a command of U128 raises or sets H1, H2, LEN128 and PHASE128; the window follows from the
registers. -/
theorem u128CommandsKeepTheirFrame : Obligations.U128CommandsKeepTheirFrame := by
  intro i s t hi h
  have hU : isU128Command i = true := by
    rcases hi with rfl | rfl | ⟨c, rfl⟩ | rfl <;> rfl
  obtain ⟨hno32, hnoP⟩ := not_U32_P_of_U128 hU
  have h32 := exec_viewU32 hno32 h
  have hP := exec_viewP hnoP h
  have ho := exec_operands h
  obtain ⟨-, ⟨hseed, hdin0, hdin1, hdin2, hdin3⟩, -⟩ := operands_eq_iff.1 ho
  obtain ⟨hpending, hanswer⟩ := exec_pending_answer h
  obtain ⟨hblock, hfinal, herr⟩ : (i = .block128 → t.phase128 = s.phase128) ∧
      (i = .final128 → t.len128 = s.len128) ∧
      ((t.err = s.err ∧ t.errCode = s.errCode) ∨ viewU128 t = viewU128 s) := by
    rcases exec_U128_cases hU h with ⟨k, rfl⟩ | ⟨a, b, n, p, rfl, hb, hf⟩
    · simp
    · simpa using ⟨hb, hf⟩
  exact ⟨hseed, hdin0, hdin1, hdin2, hdin3, h32, hP, hblock, hfinal, herr, hpending, hanswer,
    fun _ => windowByte_outside_U128_results ho h32 hP⟩

/-- Settles O42: NOP, CLRERR and the primitives are of neither hash unit, and of these only a primitive that does not
raise writes PY. -/
theorem primitiveAndControlCommandsKeepTheirFrame : Obligations.PrimitiveAndControlCommandsKeepTheirFrame := by
  intro i s t hi h
  obtain ⟨hno32, hno128⟩ : isU32Command i = false ∧ isU128Command i = false := by
    rcases hi with rfl | rfl | ⟨r, rfl⟩ | ⟨r, rfl⟩ | rfl | rfl <;> exact ⟨rfl, rfl⟩
  have h32 := exec_viewU32 hno32 h
  have h128 := exec_viewU128 hno128 h
  have ho := exec_operands h
  obtain ⟨-, -, hpx⟩ := operands_eq_iff.1 ho
  obtain ⟨hpending, hanswer⟩ := exec_pending_answer h
  obtain ⟨hpy, herr_or_py, herr⟩ : (i = .nop ∨ i = .clrerr → t.py = s.py) ∧
      (i ≠ .clrerr → (t.err = s.err ∧ t.errCode = s.errCode) ∨ t.py = s.py) ∧
      (i = .nop ∨ i = .fmix32 ∨ i = .fmix64 → t.err = s.err ∧ t.errCode = s.errCode) := by
    cases exec_writeCase h with
    | u32 hi' => rw [hno32] at hi'; cases hi'
    | u128 hi' => rw [hno128] at hi'; cases hi'
    | raises hi' k ht => simp [ht, hi']
    | primitive hi' v ht =>
      have hnop : i ≠ .nop ∧ i ≠ .clrerr := by constructor <;> rintro rfl <;> cases hi'
      simp [ht, hnop]
    | nop _ ht => simp [ht]
    | clrerr hi' ht => simp [ht, hi']
  exact ⟨h32, h128, hpx, hpy, herr_or_py, herr, hpending, hanswer,
    fun _ => windowByte_outside_PY ho h32 h128⟩

end Sys2Proof.Proofs
end

section
/-! The units apart from one another (10_state.md R41): what an event leaves in a unit depends on that unit alone, its
results change by its own commands and reset only, and its phase moves as the table of R30 has it. -/

namespace Sys2Proof.Proofs

open Sys2Proof Sys2Proof.Machine Sys2Proof.Safety Sys2Proof.Laws

/-! ### Independence: two runs that agree on a unit -/

/-- A view of the state that no error and no answer changes, that reset fixes, and that stores and commands change as
a function of itself: what a unit shows of itself is one. -/
structure IsUnitView {α : Type} (view : State → α) : Prop where
  recordError : ∀ k s, view (recordError k s) = view s
  respond : ∀ v b s, view (respond v b s) = view s
  resetBlock : ∀ s s', view (resetBlock s) = view (resetBlock s')
  writeReg : ∀ {r v s s' u u'}, writeReg r v s = some u → writeReg r v s' = some u' →
    view s = view s' → view u = view u'
  exec : ∀ {i s s' t t'}, exec i s = .next t → exec i s' = .next t' → view s = view s' → view t = view t'

/-- What an event leaves in a unit depends on that unit alone (R212): the event has the same effect on both states. -/
theorem IsUnitView.perform_congr {α : Type} {view : State → α} (hv : IsUnitView view) {e : HostEvent}
    {s s' t t' : State} (h : perform e s = .next t) (h' : perform e s' = .next t') (hs : view s = view s') :
    view t = view t' := by
  cases eventEffect e with
  | reset _ hp =>
    rw [hp] at h h'; cases h; cases h'
    exact hv.resetBlock s s'
  | command i hc _ =>
    obtain ⟨u, hu, rfl⟩ := perform_of_commandOf hc h
    obtain ⟨u', hu', rfl⟩ := perform_of_commandOf hc h'
    rw [hv.respond, hv.respond]
    exact hv.exec hu hu' hs
  | read r _ hp =>
    rw [hp] at h h'; cases h; cases h'
    rw [hv.respond, hv.respond, hs]
  | store r v _ hp =>
    obtain ⟨u, hw, hu⟩ := hp s
    obtain ⟨u', hw', hu'⟩ := hp s'
    rw [hu] at h; rw [hu'] at h'; cases h; cases h'
    rw [hv.respond, hv.respond]
    exact hv.writeReg hw hw' hs
  | error k b _ hp =>
    rw [hp] at h h'; cases h; cases h'
    rw [hv.respond, hv.respond, hv.recordError, hv.recordError, hs]

/-- A guarded update keeps two states alike in a view if its guard and its update do. -/
theorem checked_view_congr {α : Type} {view : State → α} (hrec : ∀ k s, view (recordError k s) = view s)
    {f p p' : Bool} {act act' : State → State} {s s' t t' : State} (h : checked f p act s = .next t)
    (h' : checked f p' act' s' = .next t') (hs : view s = view s') (hp : p = p')
    (ha : view (act s) = view (act' s')) : view t = view t' := by
  subst hp
  cases f with
  | false =>
    rw [checked_bad_field] at h h'; cases h; cases h'
    rw [hrec, hrec, hs]
  | true =>
    cases p with
    | false =>
      rw [checked_out_of_phase] at h h'; cases h; cases h'
      rw [hrec, hrec, hs]
    | true =>
      rw [checked_true] at h h'; cases h; cases h'
      exact ha

theorem viewU32_eq_iff {s s' : State} : viewU32 s = viewU32 s' ↔
    s.seed32 = s'.seed32 ∧ s.din32 = s'.din32 ∧ s.h32 = s'.h32 ∧ s.len32 = s'.len32 ∧ s.phase32 = s'.phase32 := by
  simp [viewU32]

theorem viewU128_eq_iff {s s' : State} : viewU128 s = viewU128 s' ↔
    s.seed128 = s'.seed128 ∧ s.din128_0 = s'.din128_0 ∧ s.din128_1 = s'.din128_1 ∧ s.din128_2 = s'.din128_2 ∧
      s.din128_3 = s'.din128_3 ∧ s.h1 = s'.h1 ∧ s.h2 = s'.h2 ∧ s.len128 = s'.len128 ∧
      s.phase128 = s'.phase128 := by
  simp [viewU128]

theorem viewP_eq_iff {s s' : State} : viewP s = viewP s' ↔ s.px = s'.px ∧ s.py = s'.py := by
  simp [viewP]

/-- What a command leaves in U32 is a function of U32's registers (R41). -/
theorem exec_viewU32_congr {i : Instr} {s s' t t' : State} (h : exec i s = .next t) (h' : exec i s' = .next t')
    (hs : viewU32 s = viewU32 s') : viewU32 t = viewU32 t' := by
  obtain ⟨hseed, hdin, hh, hn, hp⟩ := viewU32_eq_iff.1 hs
  cases i with
  | init32 =>
    rw [exec_init32] at h h'
    exact checked_view_congr viewU32_recordError h h' hs rfl (by simp [viewU32, hseed, hdin])
  | block32 =>
    rw [exec_block32] at h h'
    exact checked_view_congr viewU32_recordError h h' hs (by rw [hp]) (by simp [viewU32, hseed, hdin, hh, hn, hp])
  | tail32 c =>
    rw [exec_tail32] at h h'
    have hb : inputByte32 s = inputByte32 s' := by simp [funext_iff, inputByte32, hdin]
    exact checked_view_congr viewU32_recordError h h' hs (by rw [hp]) (by simp [viewU32, hseed, hdin, hh, hn, hb])
  | final32 =>
    rw [exec_final32] at h h'
    exact checked_view_congr viewU32_recordError h h' hs (by rw [hp]) (by simp [viewU32, hseed, hdin, hh, hn])
  | _ => rw [exec_viewU32 rfl h, exec_viewU32 rfl h', hs]

/-- What a command leaves in U128 is a function of U128's registers (R41). -/
theorem exec_viewU128_congr {i : Instr} {s s' t t' : State} (h : exec i s = .next t) (h' : exec i s' = .next t')
    (hs : viewU128 s = viewU128 s') : viewU128 t = viewU128 t' := by
  obtain ⟨hseed, hd0, hd1, hd2, hd3, h1, h2, hn, hp⟩ := viewU128_eq_iff.1 hs
  cases i with
  | init128 =>
    rw [exec_init128] at h h'
    exact checked_view_congr viewU128_recordError h h' hs rfl
      (by simp [viewU128, seedWide, hseed, hd0, hd1, hd2, hd3])
  | block128 =>
    rw [exec_block128] at h h'
    exact checked_view_congr viewU128_recordError h h' hs (by rw [hp])
      (by simp [viewU128, blockWord1, blockWord2, hseed, hd0, hd1, hd2, hd3, h1, h2, hn, hp])
  | tail128 c =>
    rw [exec_tail128] at h h'
    have hb : inputByte128 s = inputByte128 s' := by simp [funext_iff, inputByte128, din128, hd0, hd1, hd2, hd3]
    exact checked_view_congr viewU128_recordError h h' hs (by rw [hp])
      (by simp [viewU128, hseed, hd0, hd1, hd2, hd3, h1, h2, hn, hb])
  | final128 =>
    rw [exec_final128] at h h'
    exact checked_view_congr viewU128_recordError h h' hs (by rw [hp])
      (by simp [viewU128, hseed, hd0, hd1, hd2, hd3, h1, h2, hn])
  | _ => rw [exec_viewU128 rfl h, exec_viewU128 rfl h', hs]

/-- What a command leaves in P is a function of P's registers (R41). -/
theorem exec_viewP_congr {i : Instr} {s s' t t' : State} (h : exec i s = .next t) (h' : exec i s' = .next t')
    (hs : viewP s = viewP s') : viewP t = viewP t' := by
  obtain ⟨hx, -⟩ := viewP_eq_iff.1 hs
  cases i with
  | rotl32 r =>
    rw [exec_rotl32] at h h'
    exact checked_view_congr viewP_recordError h h' hs rfl (by simp [viewP, primOperand32, hx])
  | rotl64 r =>
    rw [exec_rotl64] at h h'
    exact checked_view_congr viewP_recordError h h' hs rfl (by simp [viewP, primOperand64, hx])
  | fmix32 =>
    rw [exec_fmix32] at h h'
    exact checked_view_congr viewP_recordError h h' hs rfl (by simp [viewP, primOperand32, hx])
  | fmix64 =>
    rw [exec_fmix64] at h h'
    exact checked_view_congr viewP_recordError h h' hs rfl (by simp [viewP, primOperand64, hx])
  | _ => rw [exec_viewP rfl h, exec_viewP rfl h', hs]

theorem isUnitView_viewU32 : IsUnitView viewU32 where
  recordError := viewU32_recordError
  respond := viewU32_respond
  resetBlock _ _ := by simp [viewU32]
  writeReg {r _ _ _ _ _} h h' hs := by
    cases r <;> cases h <;> cases h' <;> simp_all [viewU32]
  exec := exec_viewU32_congr

theorem isUnitView_viewU128 : IsUnitView viewU128 where
  recordError := viewU128_recordError
  respond := viewU128_respond
  resetBlock _ _ := by simp [viewU128]
  writeReg {r _ _ _ _ _} h h' hs := by
    cases r <;> cases h <;> cases h' <;> simp_all [viewU128]
  exec := exec_viewU128_congr

theorem isUnitView_viewP : IsUnitView viewP where
  recordError := viewP_recordError
  respond := viewP_respond
  resetBlock _ _ := by simp [viewP]
  writeReg {r _ _ _ _ _} h h' hs := by
    cases r <;> cases h <;> cases h' <;> simp_all [viewP]
  exec := exec_viewP_congr

/-- Settles O43: each unit's registers are a view that events change as a function of itself. -/
theorem unitsAreIndependent : Obligations.UnitsAreIndependent := by
  intro e s s' t t' h h'
  rw [stepOf_eq_perform] at h h'
  exact ⟨isUnitView_viewU32.perform_congr h h', isUnitView_viewU128.perform_congr h h',
    isUnitView_viewP.perform_congr h h'⟩

/-! ### Results: what only a unit's own commands and reset change -/

/-- A view of results, owned by the commands that `own` names: no error, answer, store or other command changes it. -/
structure IsResultView {α : Type} (own : Instr → Bool) (view : State → α) : Prop where
  recordError : ∀ k s, view (recordError k s) = view s
  respond : ∀ v b s, view (respond v b s) = view s
  writeReg : ∀ {r v s u}, writeReg r v s = some u → view u = view s
  exec : ∀ {i s t}, own i = false → exec i s = .next t → view t = view s

/-- An event that is neither a reset nor a command of the owner leaves the results as they are. -/
theorem IsResultView.perform_cases {α : Type} {own : Instr → Bool} {view : State → α} (hv : IsResultView own view)
    {e : HostEvent} {s t : State} (h : perform e s = .next t) :
    view t = view s ∨ e = .reset ∨ ∃ i, commandOf e = some i ∧ own i = true := by
  cases eventEffect e with
  | reset he _ => exact .inr (.inl he)
  | command i hc _ =>
    obtain ⟨u, hu, rfl⟩ := perform_of_commandOf hc h
    cases ho : own i with
    | true => exact .inr (.inr ⟨i, hc, ho⟩)
    | false => exact .inl (by rw [hv.respond, hv.exec ho hu])
  | read r _ hp =>
    rw [hp] at h; cases h
    exact .inl (hv.respond _ _ _)
  | store r v _ hp =>
    obtain ⟨u, hw, hu⟩ := hp s
    rw [hu] at h; cases h
    exact .inl (by rw [hv.respond, hv.writeReg hw])
  | error k b _ hp =>
    rw [hp] at h; cases h
    exact .inl (by rw [hv.respond, hv.recordError])

/-- What the commands of U32 write: H32, LEN32, PHASE32 (R41). -/
def resultsU32 (s : State) : Word × Word × Phase := (s.h32, s.len32, s.phase32)

/-- What the commands of U128 write: H1, H2, LEN128, PHASE128 (R41). -/
def resultsU128 (s : State) : DWord × DWord × DWord × Phase := (s.h1, s.h2, s.len128, s.phase128)

theorem resultsU32_eq_iff {s t : State} :
    resultsU32 t = resultsU32 s ↔ t.h32 = s.h32 ∧ t.len32 = s.len32 ∧ t.phase32 = s.phase32 := by
  simp [resultsU32]

theorem resultsU128_eq_iff {s t : State} : resultsU128 t = resultsU128 s ↔
    t.h1 = s.h1 ∧ t.h2 = s.h2 ∧ t.len128 = s.len128 ∧ t.phase128 = s.phase128 := by
  simp [resultsU128]

theorem isResultView_resultsU32 : IsResultView isU32Command resultsU32 where
  recordError _ _ := by simp [resultsU32]
  respond _ _ _ := by simp [resultsU32]
  writeReg {r _ _ _} h := by cases r <;> cases h <;> rfl
  exec hi h := by
    obtain ⟨-, -, hh, hn, hp⟩ := viewU32_eq_iff.1 (exec_viewU32 hi h)
    exact resultsU32_eq_iff.2 ⟨hh, hn, hp⟩

theorem isResultView_resultsU128 : IsResultView isU128Command resultsU128 where
  recordError _ _ := by simp [resultsU128]
  respond _ _ _ := by simp [resultsU128]
  writeReg {r _ _ _} h := by cases r <;> cases h <;> rfl
  exec hi h := by
    obtain ⟨-, -, -, -, -, h1, h2, hn, hp⟩ := viewU128_eq_iff.1 (exec_viewU128 hi h)
    exact resultsU128_eq_iff.2 ⟨h1, h2, hn, hp⟩

theorem isResultView_py : IsResultView isPCommand State.py where
  recordError := recordError_py
  respond := respond_py
  writeReg {r _ _ _} h := by cases r <;> cases h <;> rfl
  exec hi h := (viewP_eq_iff.1 (exec_viewP hi h)).2

/-- A zero-extended word has nothing in its upper half. -/
theorem setWidth_toNat_div (w : Word) : (w.setWidth 64).toNat / 2 ^ 32 = 0 := by
  have := w.isLt
  rw [BitVec.toNat_setWidth]
  omega

/-- FMIX32 leaves PY[63:32] at 0 (R37). -/
theorem exec_fmix32_py_high {s t : State} (h : exec .fmix32 s = .next t) : t.py.toNat / 2 ^ 32 = 0 := by
  rw [exec_fmix32, checked_true] at h; cases h
  exact setWidth_toNat_div _

/-- ROTL32 with ROT in 1..31 leaves PY[63:32] at 0 (R37). -/
theorem exec_rotl32_py_high {r : BitVec 6} {s t : State} (h1 : 1 ≤ r.toNat) (h31 : r.toNat ≤ 31)
    (h : exec (.rotl32 r) s = .next t) : t.py.toNat / 2 ^ 32 = 0 := by
  have hok : rotl32RotOk r = true := by simp [rotl32RotOk, h1, h31]
  rw [exec_rotl32, hok, checked_true] at h; cases h
  exact setWidth_toNat_div _

/-- Settles O45: the accumulators, counters and PY are result views of their units; the primitives of 32 bits
zero-extend. -/
theorem resultsChangeOnlyByTheirCommands : Obligations.ResultsChangeOnlyByTheirCommands := by
  intro e s t h
  rw [stepOf_eq_perform] at h
  refine ⟨fun hne => ?_, fun hne => ?_, fun hne => ?_, fun hc => ?_, fun r hc h1 h31 => ?_⟩
  · refine (isResultView_resultsU32.perform_cases h).resolve_left fun heq => ?_
    obtain ⟨hh, hn, -⟩ := resultsU32_eq_iff.1 heq
    simp [hh, hn] at hne
  · refine (isResultView_resultsU128.perform_cases h).resolve_left fun heq => ?_
    obtain ⟨h1, h2, hn, -⟩ := resultsU128_eq_iff.1 heq
    simp [h1, h2, hn] at hne
  · exact (isResultView_py.perform_cases h).resolve_left hne
  · obtain ⟨u, hu, rfl⟩ := perform_of_commandOf hc h
    rw [respond_py]
    exact exec_fmix32_py_high hu
  · obtain ⟨u, hu, rfl⟩ := perform_of_commandOf hc h
    rw [respond_py]
    exact exec_rotl32_py_high h1 h31 hu

/-! ### The phases -/

/-- The moves of PHASE32 that the commands make (R30). -/
theorem exec_phase32_moves {i : Instr} {s t : State} (h : exec i s = .next t) :
    t.phase32 = s.phase32 ∨ (i = .init32 ∧ t.phase32 = .absorb) ∨
      ((∃ c, i = .tail32 c) ∧ s.phase32 = .absorb ∧ t.phase32 = .tailed) ∨
      (i = .final32 ∧ (s.phase32 = .absorb ∨ s.phase32 = .tailed) ∧ t.phase32 = .done) := by
  cases exec_cases h with
  | init32 ht => exact .inr (.inl ⟨rfl, by simp [ht]⟩)
  | tail32 c hp _ ht => exact .inr (.inr (.inl ⟨⟨c, rfl⟩, hp, by simp [ht]⟩))
  | final32 hp ht => exact .inr (.inr (.inr ⟨rfl, hp, by simp [ht]⟩))
  | block32 hp ht => exact .inl (by simp [ht, hp])
  | raises _ k _ ht => exact .inl (by simp [ht])
  | _ =>
    obtain ⟨-, -, -, -, hp⟩ := viewU32_eq_iff.1 (exec_viewU32 rfl h)
    exact .inl hp

/-- The moves of PHASE128 that the commands make (R35). -/
theorem exec_phase128_moves {i : Instr} {s t : State} (h : exec i s = .next t) :
    t.phase128 = s.phase128 ∨ (i = .init128 ∧ t.phase128 = .absorb) ∨
      ((∃ c, i = .tail128 c) ∧ s.phase128 = .absorb ∧ t.phase128 = .tailed) ∨
      (i = .final128 ∧ (s.phase128 = .absorb ∨ s.phase128 = .tailed) ∧ t.phase128 = .done) := by
  cases exec_cases h with
  | init128 ht => exact .inr (.inl ⟨rfl, by simp [ht]⟩)
  | tail128 c hp _ ht => exact .inr (.inr (.inl ⟨⟨c, rfl⟩, hp, by simp [ht]⟩))
  | final128 hp ht => exact .inr (.inr (.inr ⟨rfl, hp, by simp [ht]⟩))
  | block128 hp ht => exact .inl (by simp [ht, hp])
  | raises _ k _ ht => exact .inl (by simp [ht])
  | _ =>
    obtain ⟨-, -, -, -, -, -, -, -, hp⟩ := viewU128_eq_iff.1 (exec_viewU128 rfl h)
    exact .inl hp

/-- The moves of PHASE32 on any event (R30, R236). -/
theorem perform_phase32_moves {e : HostEvent} {s t : State} (h : perform e s = .next t) :
    t.phase32 = s.phase32 ∨ (e = .reset ∧ t.phase32 = .idle) ∨ (commandOf e = some .init32 ∧ t.phase32 = .absorb) ∨
      ((∃ c, commandOf e = some (.tail32 c)) ∧ s.phase32 = .absorb ∧ t.phase32 = .tailed) ∨
      (commandOf e = some .final32 ∧ (s.phase32 = .absorb ∨ s.phase32 = .tailed) ∧ t.phase32 = .done) := by
  rcases isResultView_resultsU32.perform_cases h with heq | rfl | ⟨i, hc, -⟩
  · obtain ⟨-, -, hp⟩ := resultsU32_eq_iff.1 heq
    exact .inl hp
  · cases h
    exact .inr (.inl ⟨rfl, rfl⟩)
  · obtain ⟨u, hu, rfl⟩ := perform_of_commandOf hc h
    simpa [hc] using (exec_phase32_moves hu).imp_right .inr

/-- The moves of PHASE128 on any event (R30, R236). -/
theorem perform_phase128_moves {e : HostEvent} {s t : State} (h : perform e s = .next t) :
    t.phase128 = s.phase128 ∨ (e = .reset ∧ t.phase128 = .idle) ∨
      (commandOf e = some .init128 ∧ t.phase128 = .absorb) ∨
      ((∃ c, commandOf e = some (.tail128 c)) ∧ s.phase128 = .absorb ∧ t.phase128 = .tailed) ∨
      (commandOf e = some .final128 ∧ (s.phase128 = .absorb ∨ s.phase128 = .tailed) ∧ t.phase128 = .done) := by
  rcases isResultView_resultsU128.perform_cases h with heq | rfl | ⟨i, hc, -⟩
  · obtain ⟨-, -, -, hp⟩ := resultsU128_eq_iff.1 heq
    exact .inl hp
  · cases h
    exact .inr (.inl ⟨rfl, rfl⟩)
  · obtain ⟨u, hu, rfl⟩ := perform_of_commandOf hc h
    simpa [hc] using (exec_phase128_moves hu).imp_right .inr

/-- Settles O46: the phases are results, which change on reset and on the unit's own commands only, and these make the
moves of the table. -/
theorem phasesMoveOnlyAsTheTableHasIt : Obligations.PhasesMoveOnlyAsTheTableHasIt := by
  intro e s t h
  rw [stepOf_eq_perform] at h
  exact ⟨perform_phase32_moves h, perform_phase128_moves h⟩

end Sys2Proof.Proofs
end

section
/-! The registers in the window (20_memory.md R51 to R54): STATUS, ID and PX as a host reads and writes them; the steps
of a command and of an idle block; the values at reset. -/

namespace Sys2Proof.Proofs

open Sys2Proof Sys2Proof.Machine Sys2Proof.Safety Sys2Proof.Laws

/-! ### Accesses to a register by name -/

/-- A read at a register's offset gives its value and changes nothing (R52, R59). -/
theorem stepOf_read (r : Reg) (s : State) :
    stepOf (.read (regOffset r) .four) s = .next (answered (readReg r s) false s) := by
  rw [stepOf_eq_perform, perform_read, respond_eq_answered]

/-- A write at the offset of a read-write register stores there (R52). -/
theorem stepOf_store {r : Reg} {v : Word} {s u : State} (hw : writeReg r v s = some u) :
    stepOf (.write (regOffset r) .four v) s = .next (answered 0 false u) := by
  rw [stepOf_eq_perform, perform_store hw, respond_eq_answered]

/-- A write at the offset of a read-only register is a bus error (R207). -/
theorem stepOf_write_readOnly {r : Reg} {v : Word} {s : State} (hr : r ≠ .cmd) (hw : writeReg r v s = none) :
    stepOf (.write (regOffset r) .four v) s = .next (answered 0 true (raised 4 s)) := by
  rw [stepOf_eq_perform, perform_bad_write s (.inr (.inr ⟨r, hr, regAt_regOffset r, hw⟩)), busError_eq]

/-- Byte lane `j` of a register lies `j` above the register's offset (R54). -/
theorem windowByte_regOffset (r : Reg) (s : State) {j : Nat} (hj : j < 4) :
    windowByte s (regOffset r + BitVec.ofNat 8 j) = some (byteOf (readReg r s) j) := by
  have haligned := regOffset_aligned r
  have hsum : (regOffset r + BitVec.ofNat 8 j).toNat = (regOffset r).toNat + j := by
    have := (regOffset r).isLt
    rw [BitVec.toNat_add, BitVec.toNat_ofNat]
    omega
  have hbase : BitVec.ofNat 8 (4 * (((regOffset r).toNat + j) / 4)) = regOffset r := by
    rw [show 4 * (((regOffset r).toNat + j) / 4) = (regOffset r).toNat by omega]
    simp
  unfold windowByte
  rw [hsum, hbase, regAt_regOffset, Option.map_some, show ((regOffset r).toNat + j) % 4 = j by omega]

/-! ### STATUS (R24) -/

/-- Bits put side by side, as a number. -/
theorem append_toNat {m n : Nat} (a : BitVec m) (b : BitVec n) : (a ++ b).toNat = 2 ^ n * a.toNat + b.toNat := by
  rw [BitVec.toNat_append, ← Nat.shiftLeft_add_eq_or_of_lt b.isLt, Nat.shiftLeft_eq, Nat.mul_comm]

/-- STATUS as a number: each field times the weight of its lowest bit (R24). -/
theorem statusWord_toNat (s : State) : (statusWord s).toNat =
    1024 * (phaseCode s.phase128).toNat + 256 * (phaseCode s.phase32).toNat + 16 * s.errCode.toNat +
      s.err.toNat := by
  have h128 := (phaseCode s.phase128).isLt
  have h32 := (phaseCode s.phase32).isLt
  have hcode := s.errCode.isLt
  have herr := s.err.toNat_lt
  rw [statusWord, BitVec.toNat_setWidth]
  simp only [append_toNat, BitVec.toNat_ofBool, BitVec.toNat_ofNat]
  omega

/-- Settles O34: the fields are the digits of `statusWord_toNat`. -/
theorem statusReadsItsFields : Obligations.StatusReadsItsFields := by
  intro s
  have hword := statusWord_toNat s
  have h128 := (phaseCode s.phase128).isLt
  have h32 := (phaseCode s.phase32).isLt
  have hcode := s.errCode.isLt
  have herr := s.err.toNat_lt
  have herr' : (if s.err then 1 else 0) = s.err.toNat := by cases s.err <;> rfl
  refine ⟨statusWord s, stepOf_read .status s, ?_, ?_, ?_, ?_, ?_, ?_, fun w => ?_⟩
  · rw [herr']; omega
  · omega
  · omega
  · calc (statusWord s).toNat / 256 % 4 = (phaseCode s.phase32).toNat := by omega
      _ = _ := by cases s.phase32 <;> rfl
  · calc (statusWord s).toNat / 1024 % 4 = (phaseCode s.phase128).toNat := by omega
      _ = _ := by cases s.phase128 <;> rfl
  · omega
  · exact stepOf_write_readOnly (r := .status) (by decide) rfl

/-! ### ID (R22) -/

/-- Settles O35: ID is read-only, and its four lanes are the bytes of the constant. -/
theorem idIsAConstant : Obligations.IdIsAConstant := by
  intro s v
  have lane {off : Offset} {b : Byte} (j : Nat) (hj : j < 4) (hoff : off = regOffset .id + BitVec.ofNat 8 j)
      (hb : byteOf idValue j = b) : windowByte s off = some b := by
    rw [hoff, windowByte_regOffset .id s hj, readReg, hb]
  have hwrite : stepOf (.write 0x00 .four v) s = .next (answered 0 true (raised 4 s)) :=
    stepOf_write_readOnly (r := .id) (by decide) rfl
  exact ⟨stepOf_read .id s, lane 0 (by decide) (by decide) (by decide), lane 1 (by decide) (by decide) (by decide),
    lane 2 (by decide) (by decide) (by decide), lane 3 (by decide) (by decide) (by decide), hwrite⟩

/-! ### PX (R36) -/

theorem lowWord_eq_ofNat (d : DWord) : lowWord d = BitVec.ofNat 32 d.toNat := by
  rw [lowWord_eq_setWidth]
  rfl

theorem highWord_eq_ofNat (d : DWord) : highWord d = BitVec.ofNat 32 (d.toNat / 2 ^ 32) := by
  rw [highWord_eq_setWidth]
  apply BitVec.eq_of_toNat_eq
  simp [Nat.shiftRight_eq_div_pow]

/-- Two words joined are the upper times 2^32 plus the lower. -/
theorem joinWords_eq_ofNat (hi lo : Word) : joinWords hi lo = BitVec.ofNat 64 (hi.toNat * 2 ^ 32 + lo.toNat) := by
  have h := joinWords_toNat hi lo
  rw [Nat.mul_comm, Nat.add_comm, ← h, BitVec.ofNat_toNat, BitVec.setWidth_eq]

/-- Settles O37: the stores join the written half to the one that stays, and commands keep every operand. -/
theorem pxIsWrittenByHalves : Obligations.PxIsWrittenByHalves := by
  intro s v
  have hpx := s.px.isLt
  have hlow : (lowWord s.px).toNat = s.px.toNat % 2 ^ 32 := by rw [lowWord_eq_ofNat, BitVec.toNat_ofNat]
  have hhigh : (highWord s.px).toNat = s.px.toNat / 2 ^ 32 := by
    rw [highWord_eq_ofNat, BitVec.toNat_ofNat]
    omega
  refine ⟨?_, ?_, ?_, ?_, fun i t h => ?_⟩
  · rw [← lowWord_eq_ofNat]
    exact stepOf_read .px_lo s
  · rw [← highWord_eq_ofNat]
    exact stepOf_read .px_hi s
  · rw [← hhigh, ← joinWords_eq_ofNat]
    exact stepOf_store (r := .px_lo) rfl
  · rw [← hlow, ← joinWords_eq_ofNat]
    exact stepOf_store (r := .px_hi) rfl
  · obtain ⟨-, -, hx⟩ := operands_eq_iff.1 (exec_operands h)
    exact hx

/-! ### Steps -/

/-- Settles O5: a write of a word that decodes performs its command, which keeps what is pending. -/
theorem stepRunsTheDecodedCommand : Obligations.StepRunsTheDecodedCommand := by
  intro s w i rest hp hd
  obtain ⟨t, ht⟩ := exec_answers_next i { s with pending := rest }
  obtain ⟨hpending, -⟩ := exec_pending_answer ht
  exact ⟨t, ht, hpending, (step_of_pending hp).trans (perform_command hd ht)⟩

/-- Settles O8: `deliver` has nothing to perform. -/
theorem noStepWithoutAnEvent : Obligations.NoStepWithoutAnEvent := by
  intro s hp
  simp only [step, deliver, hp]

/-! ### Reset (R40) -/

/-- Settles O32: ERR and ERRCODE are both 0. -/
theorem errorFieldsConsistentAtReset : Obligations.ErrorFieldsConsistentAtReset := by
  unfold Obligations.ErrorFieldsConsistentAtReset
  decide

/-- Settles O47: the fields are those of `State.reset`; ID and CMD are read by their offsets. -/
theorem resetStateHasTheSpecsValues : Obligations.ResetStateHasTheSpecsValues :=
  ⟨rfl, rfl, rfl, rfl, rfl, rfl, rfl, rfl, rfl, rfl, rfl, rfl, rfl, rfl, rfl, rfl, rfl, rfl,
    stepOf_read .id State.reset, stepOf_read .cmd State.reset⟩

/-- Settles O58: with nothing delivered a unit holds that its phase is IDLE. -/
theorem nothingDeliveredAtReset : Obligations.NothingDeliveredAtReset := ⟨rfl, rfl⟩

end Sys2Proof.Proofs
end

section
/-! The register window (20_memory.md): every legal read, the stores to the 32-bit operand registers, and where the
platform finds the window. -/

namespace Sys2Proof.Proofs

open Sys2Proof Sys2Proof.Machine Sys2Proof.Safety Sys2Proof.Laws

/-! ### Legal accesses (R51, R52, R59) -/

/-- Settles O33: the listed offsets and values are those of the map's registers, STATUS left out, once the halves of
the 64-bit registers are named. -/
theorem readsGiveTheMappedValues : Obligations.ReadsGiveTheMappedValues := by
  intro s p hp
  simp only [← highWord_eq_setWidth] at hp
  simp only [← lowWord_eq_setWidth] at hp
  have hmap : p ∈ (mappedRegs.erase .status).map fun r => (regOffset r, readReg r s) := hp
  obtain ⟨r, -, rfl⟩ := List.mem_map.1 hmap
  exact stepOf_read r s

/-- Settles O36: each offset is that of a register `writeReg` stores to. -/
theorem storesChangeTheirRegisterAlone : Obligations.StoresChangeTheirRegisterAlone := fun _ _ =>
  ⟨stepOf_store (r := .seed32) rfl, stepOf_store (r := .din32) rfl, stepOf_store (r := .seed128) rfl,
    stepOf_store (r := .din128_0) rfl, stepOf_store (r := .din128_1) rfl, stepOf_store (r := .din128_2) rfl,
    stepOf_store (r := .din128_3) rfl⟩

/-! ### The place of the window (R50, R60) -/

theorem base_mod : Config.base % 256 = 0 := Nat.mul_mod_right 256 Config.baseIndex

/-- The address of an offset leads back to it (R50). -/
@[simp] theorem windowOffset_busAddress (off : Offset) : windowOffset (busAddress off) = some off := by
  have hlt := off.isLt
  have hmem : Config.base ≤ busAddress off ∧ busAddress off < Config.base + 256 := by
    unfold busAddress
    omega
  rw [windowOffset, if_pos hmem, busAddress, Nat.add_sub_cancel_left, BitVec.ofNat_toNat, BitVec.setWidth_eq]

/-- The block decodes no address outside the window, and every one inside it (R60). -/
theorem windowOffset_eq_none_iff (a : Nat) :
    windowOffset a = none ↔ a < Config.base ∨ Config.base + 256 ≤ a := by
  unfold windowOffset
  split
  · next hmem => simp only [reduceCtorEq, false_iff]; omega
  · next hmem => simp only [true_iff]; omega

/-- Settles O39: `base_mod`, `windowOffset_busAddress` and `windowOffset_eq_none_iff`. -/
theorem windowIsAtBase : Obligations.WindowIsAtBase :=
  ⟨base_mod, windowOffset_busAddress, windowOffset_eq_none_iff⟩

end Sys2Proof.Proofs
end

section
/-! The decoder and the encoder (30_encoding.md R81 to R83, R91): a word is taken apart into the opcode and the operand
fields of its command, and every claim about decoding goes through what `decodeOp` says of those fields. -/

namespace Sys2Proof.Proofs

open Sys2Proof Sys2Proof.Machine Sys2Proof.Laws
open Sys2Proof.Laws.EncodeFields (opcodeOf)

/-! ### The fields of a command -/

/-- The field CNT of a command's word: 0 where the command carries none (R82). -/
def cntOf : Instr → BitVec 4
  | .tail32 cnt | .tail128 cnt => cnt
  | _ => 0

/-- The field ROT of a command's word: 0 where the command carries none (R82). -/
def rotOf : Instr → BitVec 6
  | .rotl32 rot | .rotl64 rot => rot
  | _ => 0

/-- The command word is `OP | CNT << 4 | ROT << 8` (R91). -/
theorem encode_toNat (i : Instr) :
    (encode i).toNat = (opcodeOf i).toNat + 16 * (cntOf i).toNat + 256 * (rotOf i).toNat := by
  cases i with
  | tail32 cnt => exact encode_tail32_toNat cnt
  | tail128 cnt => exact encode_tail128_toNat cnt
  | rotl32 rot => exact encode_rotl32_toNat rot
  | rotl64 rot => exact encode_rotl64_toNat rot
  | _ => rfl

/-- No command has a reserved opcode (R82). -/
theorem opcodeOf_ne_reserved (i : Instr) : ¬ (opcodeOf i = 13 ∨ opcodeOf i = 14) := by
  cases i <;> simp [opcodeOf]

/-- A word is the word of a command exactly if its fields are the command's and RSV is 0 (R91). -/
theorem eq_encode_iff_fields {w : Word} {i : Instr} : w = encode i ↔
    opField w = opcodeOf i ∧ cntField w = cntOf i ∧ rotField w = rotOf i ∧ rsvField w = 0 := by
  have hop := (opcodeOf i).isLt
  have hcnt := (cntOf i).isLt
  have hrot := (rotOf i).isLt
  simp only [← BitVec.toNat_inj, encode_toNat, opField_toNat, cntField_toNat, rotField_toNat, rsvField_toNat,
    BitVec.ofNat_eq_ofNat, BitVec.toNat_ofNat]
  omega

/-! ### What each form of the opcode map rejects (R82, R83) -/

theorem decodePlain_eq_error {cnt : BitVec 4} {rot : BitVec 6} {i : Instr} {r : DecodeReject} :
    decodePlain cnt rot i = .error r ↔ r = .badField ∧ (cnt ≠ 0 ∨ rot ≠ 0) := by
  unfold decodePlain
  split <;> simp_all [eq_comm (b := r), imp_iff_not_or]

theorem decodeWithCnt_eq_error {rot : BitVec 6} {i : Instr} {r : DecodeReject} :
    decodeWithCnt rot i = .error r ↔ r = .badField ∧ rot ≠ 0 := by
  unfold decodeWithCnt
  split <;> simp_all [eq_comm (b := r)]

theorem decodeWithRot_eq_error {cnt : BitVec 4} {i : Instr} {r : DecodeReject} :
    decodeWithRot cnt i = .error r ↔ r = .badField ∧ cnt ≠ 0 := by
  unfold decodeWithRot
  split <;> simp_all [eq_comm (b := r)]

/-! ### The opcode map (R82) -/

/-- The opcode map accepts exactly the fields of a command. -/
theorem decodeOp_eq_ok {op cnt : BitVec 4} {rot : BitVec 6} {i : Instr} :
    decodeOp op cnt rot = .ok i ↔ op = opcodeOf i ∧ cnt = cntOf i ∧ rot = rotOf i := by
  constructor
  · intro h
    rcases opcode_cases op with (rfl | rfl) | rfl | rfl | rfl | rfl | rfl | rfl | rfl | rfl | rfl | rfl | rfl | rfl |
      rfl | rfl <;>
      simp_all [decodeOp, decodePlain_eq_ok, decodeWithCnt_eq_ok, decodeWithRot_eq_ok, eq_comm (b := i), opcodeOf,
        cntOf, rotOf]
  · rintro ⟨rfl, rfl, rfl⟩
    cases i <;> rfl

/-- What the opcode map rejects of the defined opcodes: CNT outside the tails, ROT outside the rotations. -/
theorem decodeOp_eq_error {op cnt : BitVec 4} {rot : BitVec 6} {r : DecodeReject} (hop : ¬ (op = 13 ∨ op = 14)) :
    decodeOp op cnt rot = .error r ↔
      r = .badField ∧ ((cnt ≠ 0 ∧ op ≠ 3 ∧ op ≠ 7) ∨ (rot ≠ 0 ∧ op ≠ 9 ∧ op ≠ 10)) := by
  rcases opcode_cases op with h | rfl | rfl | rfl | rfl | rfl | rfl | rfl | rfl | rfl | rfl | rfl | rfl | rfl | rfl
  · exact absurd h hop
  all_goals simp [decodeOp, decodePlain_eq_error, decodeWithCnt_eq_error, decodeWithRot_eq_error]

/-! ### The decoder (R81) -/

/-- A word decodes to a command exactly if it is that command's word. -/
theorem decode_eq_ok {w : Word} {i : Instr} : decode w = .ok i ↔ w = encode i := by
  rw [eq_encode_iff_fields, decode, decodeFields]
  split
  · next hop =>
    refine iff_of_false (by simp) ?_
    rintro ⟨hopcode, -⟩
    exact opcodeOf_ne_reserved i (hopcode ▸ hop)
  · split
    · next hrsv =>
      refine iff_of_false (by simp) ?_
      rintro ⟨-, -, -, hzero⟩
      exact hrsv hzero
    · next hrsv => simp [decodeOp_eq_ok, not_not.1 hrsv]

theorem decode_encode (i : Instr) : decode (encode i) = .ok i := decode_eq_ok.2 rfl

/-- The decoder names a reserved opcode before anything else (R81, R205). -/
theorem decode_eq_illegalOp {w : Word} :
    decode w = .error .illegalOp ↔ opField w = 13 ∨ opField w = 14 := by
  rw [decode, decodeFields]
  split
  · next hop => exact iff_of_true rfl hop
  · next hop =>
    split
    · simpa using hop
    · simpa [decodeOp_eq_error hop] using hop

/-- What else the decoder rejects: RSV, CNT outside the tails, ROT outside the rotations (R83; log entry 6). -/
theorem decode_eq_badField {w : Word} :
    decode w = .error .badField ↔ ¬ (opField w = 13 ∨ opField w = 14) ∧
      (rsvField w ≠ 0 ∨ (cntField w ≠ 0 ∧ opField w ≠ 3 ∧ opField w ≠ 7) ∨
        (rotField w ≠ 0 ∧ opField w ≠ 9 ∧ opField w ≠ 10)) := by
  rw [decode, decodeFields]
  split
  · next hop => simp only [Except.error.injEq, reduceCtorEq, hop, not_true_eq_false, false_and]
  · next hop =>
    split
    · next hrsv => exact iff_of_true rfl ⟨hop, .inl hrsv⟩
    · next hrsv => simp only [decodeOp_eq_error hop, hop, hrsv, true_and, not_false_eq_true, false_or]

/-! ### The obligations -/

/-- Settles O1, by `decode_eq_ok` from right to left. -/
theorem decodeOfEncodeIsTheCommand : Obligations.DecodeOfEncodeIsTheCommand := decode_encode

/-- Settles O2, by `decode_eq_ok` from left to right. -/
theorem decodedWordIsTheEncodedWord : Obligations.DecodedWordIsTheEncodedWord := fun _ _ => decode_eq_ok.1

/-- Settles O3: `decode_eq_illegalOp` and `decode_eq_badField`, with the fields as numbers. -/
theorem decoderRejectsWordsOutsideTheTableMasks : Obligations.DecoderRejectsWordsOutsideTheTableMasks := by
  intro w op cnt rot rsv
  constructor
  · simp only [decode_eq_illegalOp, ← BitVec.toNat_inj, opField_toNat]
    exact Iff.rfl
  · simp only [decode_eq_badField, ne_eq, ← BitVec.toNat_inj, opField_toNat, cntField_toNat, rotField_toNat,
      rsvField_toNat, not_or, and_assoc]
    exact Iff.rfl

/-- Settles O4: the written words are the words of their commands; the last two are rejected by evaluation. -/
theorem writtenOutWordsDecode : Obligations.WrittenOutWordsDecode :=
  ⟨decode_encode .nop, decode_encode .init32, decode_encode (.tail32 3), decode_encode (.tail128 13),
    decode_encode (.rotl32 8), decode_encode (.rotl64 32), decode_encode .clrerr, rfl, rfl⟩

end Sys2Proof.Proofs
end

section
/-! `Command(w)` (30_encoding.md R81): a write to CMD raises what the decoder names, then checks the operand field of
the command (R83) and its phase (R82), in this order (60_exceptions.md R205). -/

namespace Sys2Proof.Proofs

open Sys2Proof Sys2Proof.Machine Sys2Proof.Safety Sys2Proof.Laws
open Sys2Proof.Laws.EncodeFields (opcodeOf)

/-! ### A command is its effect behind the two checks -/

/-- The phases a command is legal in (R82, R30). -/
def phaseLegal : Instr → State → Bool
  | .block32, s | .tail32 _, s => absorbLegal s.phase32
  | .final32, s => finalLegal s.phase32
  | .block128, s | .tail128 _, s => absorbLegal s.phase128
  | .final128, s => finalLegal s.phase128
  | _, _ => true

/-- The effect of a command leaves ERR and ERRCODE alone, CLRERR excepted (R38). -/
def KeepsError (i : Instr) (act : State → State) : Prop :=
  i ≠ .clrerr → ∀ s, (act s).err = s.err ∧ (act s).errCode = s.errCode

theorem tail32CntOk_eq_wellFormed (cnt : BitVec 4) : tail32CntOk cnt = (Instr.tail32 cnt).wellFormed :=
  (Bool.decide_and _ _).symm

theorem tail128CntOk_eq_wellFormed (cnt : BitVec 4) : tail128CntOk cnt = (Instr.tail128 cnt).wellFormed :=
  (Bool.decide_and _ _).symm

theorem rotl32RotOk_eq_wellFormed (rot : BitVec 6) : rotl32RotOk rot = (Instr.rotl32 rot).wellFormed :=
  (Bool.decide_and _ _).symm

theorem rotl64RotOk_eq_wellFormed (rot : BitVec 6) : rotl64RotOk rot = (Instr.rotl64 rot).wellFormed :=
  (Bool.decide_and _ _).symm

/-- Every command is an effect behind the field check of R83 and the phase check of R82. -/
theorem exec_eq_checked_wellFormed (i : Instr) : ∃ act : State → State,
    (∀ s, exec i s = checked i.wellFormed (phaseLegal i s) act s) ∧ KeepsError i act := by
  cases i with
  | nop => exact ⟨_, exec_nop, fun _ _ => ⟨by simp, by simp⟩⟩
  | clrerr => exact ⟨_, exec_clrerr, fun h => absurd rfl h⟩
  | init32 => exact ⟨_, exec_init32, fun _ _ => ⟨by simp, by simp⟩⟩
  | block32 => exact ⟨_, exec_block32, fun _ _ => ⟨by simp, by simp⟩⟩
  | tail32 cnt => exact ⟨_, tail32CntOk_eq_wellFormed cnt ▸ exec_tail32 cnt, fun _ _ => ⟨by simp, by simp⟩⟩
  | final32 => exact ⟨_, exec_final32, fun _ _ => ⟨by simp, by simp⟩⟩
  | init128 => exact ⟨_, exec_init128, fun _ _ => ⟨by simp, by simp⟩⟩
  | block128 => exact ⟨_, exec_block128, fun _ _ => ⟨by simp, by simp⟩⟩
  | tail128 cnt => exact ⟨_, tail128CntOk_eq_wellFormed cnt ▸ exec_tail128 cnt, fun _ _ => ⟨by simp, by simp⟩⟩
  | final128 => exact ⟨_, exec_final128, fun _ _ => ⟨by simp, by simp⟩⟩
  | rotl32 rot => exact ⟨_, rotl32RotOk_eq_wellFormed rot ▸ exec_rotl32 rot, fun _ _ => ⟨by simp, by simp⟩⟩
  | rotl64 rot => exact ⟨_, rotl64RotOk_eq_wellFormed rot ▸ exec_rotl64 rot, fun _ _ => ⟨by simp, by simp⟩⟩
  | fmix32 => exact ⟨_, exec_fmix32, fun _ _ => ⟨by simp, by simp⟩⟩
  | fmix64 => exact ⟨_, exec_fmix64, fun _ _ => ⟨by simp, by simp⟩⟩

/-- A command whose operand field is out of range raises BAD_FIELD, in every phase (R83, R205). -/
theorem exec_of_not_wellFormed {i : Instr} (s : State) (hf : i.wellFormed = false) :
    exec i s = .next (raised 2 s) := by
  obtain ⟨act, hexec, -⟩ := exec_eq_checked_wellFormed i
  rw [hexec, hf, checked_bad_field, recordError_eq_raised, errorCode]

/-- A command out of its phase raises SEQUENCE, once its field is right (R205). -/
theorem exec_of_phase_illegal {i : Instr} {s : State} (hf : i.wellFormed = true) (hp : phaseLegal i s = false) :
    exec i s = .next (raised 3 s) := by
  obtain ⟨act, hexec, -⟩ := exec_eq_checked_wellFormed i
  rw [hexec, hf, hp, checked_out_of_phase, recordError_eq_raised, errorCode]

/-- A command whose checks pass raises nothing. -/
theorem exec_error_fields_of_legal {i : Instr} {s t : State} (hf : i.wellFormed = true) (hp : phaseLegal i s = true)
    (hi : i ≠ .clrerr) (h : exec i s = .next t) : t.err = s.err ∧ t.errCode = s.errCode := by
  obtain ⟨act, hexec, hact⟩ := exec_eq_checked_wellFormed i
  rw [hexec, hf, hp, checked_true] at h
  obtain rfl := Host.Outcome.next.inj h
  exact hact hi s

/-! ### The checks on the fields as numbers -/

/-- `FieldsOK` of R83 on the numbers OP, CNT and ROT. -/
def FieldsOk (op cnt rot : Nat) : Prop :=
  (op = 3 ∧ 1 ≤ cnt ∧ cnt ≤ 3 ∧ rot = 0) ∨ (op = 7 ∧ 1 ≤ cnt ∧ cnt ≤ 15 ∧ rot = 0) ∨
  (op = 9 ∧ cnt = 0 ∧ 1 ≤ rot ∧ rot ≤ 31) ∨ (op = 10 ∧ cnt = 0 ∧ 1 ≤ rot ∧ rot ≤ 63) ∨
  (op ≠ 3 ∧ op ≠ 7 ∧ op ≠ 9 ∧ op ≠ 10 ∧ cnt = 0 ∧ rot = 0)

/-- The phases of R82 by opcode. -/
def PhaseOk (op : Nat) (s : State) : Prop :=
  (op = 2 ∨ op = 3 → s.phase32 = .absorb) ∧ (op = 4 → s.phase32 = .absorb ∨ s.phase32 = .tailed) ∧
  (op = 6 ∨ op = 7 → s.phase128 = .absorb) ∧ (op = 8 → s.phase128 = .absorb ∨ s.phase128 = .tailed)

theorem wellFormed_iff_fieldsOk (i : Instr) :
    i.wellFormed = true ↔ FieldsOk (opcodeOf i).toNat (cntOf i).toNat (rotOf i).toNat := by
  cases i <;> simp [Instr.wellFormed, FieldsOk, opcodeOf, cntOf, rotOf]

theorem phaseLegal_iff_phaseOk (i : Instr) (s : State) :
    phaseLegal i s = true ↔ PhaseOk (opcodeOf i).toNat s := by
  cases i <;> simp [phaseLegal, PhaseOk, opcodeOf, absorbLegal_iff, finalLegal_iff]

/-- The decoder accepts a word whose fields R83 admits. -/
theorem decode_ok_of_fieldsOk {w : Word} (h13 : w.toNat % 16 ≠ 13) (h14 : w.toNat % 16 ≠ 14)
    (hrsv : w.toNat / 16384 = 0) (hf : FieldsOk (w.toNat % 16) (w.toNat / 16 % 16) (w.toNat / 256 % 64)) :
    ∃ i, decode w = .ok i := by
  obtain ⟨hillegal, hbad⟩ := decoderRejectsWordsOutsideTheTableMasks w
  cases hd : decode w with
  | ok i => exact ⟨i, rfl⟩
  | error r =>
    cases r with
    | illegalOp => have := hillegal.1 hd; omega
    | badField => have := hbad.1 hd; unfold FieldsOk at hf; omega

/-- The fields of a word that decodes are those of its command. -/
theorem fields_of_decode {w : Word} {i : Instr} (hd : decode w = .ok i) :
    w.toNat % 16 = (opcodeOf i).toNat ∧ w.toNat / 16 % 16 = (cntOf i).toNat ∧
      w.toNat / 256 % 64 = (rotOf i).toNat ∧ w.toNat / 16384 = 0 := by
  obtain ⟨hop, hcnt, hrot, hrsv⟩ := eq_encode_iff_fields.1 (decode_eq_ok.1 hd)
  rw [← opField_toNat, ← cntField_toNat, ← rotField_toNat, ← rsvField_toNat, hop, hcnt, hrot, hrsv]
  exact ⟨rfl, rfl, rfl, rfl⟩

/-! ### The write to CMD -/

/-- A write of a word that decodes performs its command (R23). -/
theorem stepOf_command {w : Word} {i : Instr} {s t : State} (hd : decode w = .ok i) (h : exec i s = .next t) :
    stepOf (.write 0x04 .four w) s = .next (answered 0 false t) := by
  rw [stepOf_eq_perform, perform_command hd h, respond_eq_answered]

/-- A write of a word that does not decode raises what the decoder names (R89). -/
theorem stepOf_rejected {w : Word} {r : DecodeReject} (s : State) (hd : decode w = .error r) :
    stepOf (.write 0x04 .four w) s = .next (answered 0 false (raised (errorCode (rejectError r)) s)) := by
  rw [stepOf_eq_perform, perform_rejected s hd, recordError_eq_raised, respond_eq_answered]

/-- Settles O6: the decoder makes the opcode check and its share of the BAD_FIELD check (log entry 6); the command it
accepts makes the rest, BAD_FIELD before SEQUENCE (`exec_eq_checked_wellFormed`). -/
theorem commandWriteMakesTheChecksInOrder : Obligations.CommandWriteMakesTheChecksInOrder := by
  intro s w op cnt rot rsv fieldsOk phaseOk after
  obtain ⟨hillegal, hbad⟩ := decoderRejectsWordsOutsideTheTableMasks w
  have hfields {i : Instr} (hd : decode w = .ok i) : i.wellFormed = true ↔ fieldsOk := by
    obtain ⟨hop, hcnt, hrot, -⟩ := fields_of_decode hd
    rw [wellFormed_iff_fieldsOk, ← hop, ← hcnt, ← hrot]
    rfl
  have hphase {i : Instr} (hd : decode w = .ok i) : phaseLegal i s = true ↔ phaseOk := by
    obtain ⟨hop, -⟩ := fields_of_decode hd
    rw [phaseLegal_iff_phaseOk, ← hop]
    rfl
  refine ⟨fun hop => stepOf_rejected s (hillegal.2 hop), ?_, ?_, ?_⟩
  · rintro ⟨h13, h14, hraise⟩
    cases hd : decode w with
    | error r =>
      cases r with
      | illegalOp => exact absurd (hillegal.1 hd) (by omega)
      | badField => exact stepOf_rejected s hd
    | ok i =>
      obtain ⟨-, -, -, hrsv⟩ := fields_of_decode hd
      have hf : ¬ i.wellFormed = true := fun h => hraise.elim (· hrsv) (· ((hfields hd).1 h))
      exact stepOf_command hd (exec_of_not_wellFormed s (by simpa using hf))
  · rintro ⟨h13, h14, hrsv, hf, hp⟩
    obtain ⟨i, hd⟩ := decode_ok_of_fieldsOk h13 h14 hrsv hf
    have hp' : ¬ phaseLegal i s = true := mt (hphase hd).1 hp
    exact stepOf_command hd (exec_of_phase_illegal ((hfields hd).2 hf) (by simpa using hp'))
  · rintro ⟨h13, h14, hrsv, hf, hp⟩
    obtain ⟨i, hd⟩ := decode_ok_of_fieldsOk h13 h14 hrsv hf
    obtain ⟨t, ht⟩ := exec_answers_next i s
    refine ⟨i, t, hd, (hfields hd).2 hf, ht, stepOf_command hd ht, fun h15 => ?_⟩
    refine exec_error_fields_of_legal ((hfields hd).2 hf) ((hphase hd).2 hp) ?_ ht
    rintro rfl
    obtain ⟨hop, -⟩ := fields_of_decode hd
    exact h15 hop

end Sys2Proof.Proofs
end

section
/-! The tails and the input bytes they ignore (30_encoding.md R86, R87). -/

namespace Sys2Proof.Proofs

open Sys2Proof Sys2Proof.Machine Sys2Proof.Laws

/-- The U32 input replaced (R26). -/
def withDin32 (d : Word) (s : State) : State := { s with din32 := d }

/-- The U128 input replaced by that of `u` (R32). -/
def withDin128Of (u s : State) : State :=
  { s with din128_0 := u.din128_0, din128_1 := u.din128_1, din128_2 := u.din128_2, din128_3 := u.din128_3 }

theorem recordError_withDin32 (k : ErrorKind) (d : Word) (s : State) :
    recordError k (withDin32 d s) = withDin32 d (recordError k s) := by
  cases h : s.err <;> simp [recordError, withDin32, h]

theorem recordError_withDin128Of (k : ErrorKind) (u s : State) :
    recordError k (withDin128Of u s) = withDin128Of u (recordError k s) := by
  cases h : s.err <;> simp [recordError, withDin128Of, h]

/-- A change of the state that recording an error and the command's effect both carry along, the whole command does. -/
theorem checked_commutes {g act : State → State} {f p : Bool} {s t : State}
    (hrec : ∀ k, recordError k (g s) = g (recordError k s)) (hact : f = true → p = true → act (g s) = g (act s))
    (h : checked f p act s = .next t) : checked f p act (g s) = .next (g t) := by
  rcases checked_cases f p act s with ⟨rfl, rfl, e⟩ | ⟨rfl, rfl, e⟩ | ⟨rfl, e⟩ <;>
    obtain rfl := Host.Outcome.next.inj (e.symm.trans h)
  · rw [checked_true, hact rfl rfl]
  · rw [checked_out_of_phase, hrec]
  · rw [checked_bad_field, hrec]

/-- Byte `j` of a word as a number (R12). -/
theorem byteOf_toNat (w : Word) (j : Nat) : (byteOf w j).toNat = w.toNat / 256 ^ j % 256 := by
  rw [byteOf, BitVec.extractLsb'_toNat, Nat.shiftRight_eq_div_pow, pow_mul]
  rfl

/-- TAIL32 on another input that agrees below CNT (R86). -/
theorem exec_tail32_withDin32 {cnt : BitVec 4} {d : Word} {s t : State}
    (hbytes : cnt.toNat ≤ 3 → ∀ j < cnt.toNat, byteOf d j = inputByte32 s j) (h : exec (.tail32 cnt) s = .next t) :
    exec (.tail32 cnt) (withDin32 d s) = .next (withDin32 d t) := by
  rw [exec_tail32] at h ⊢
  refine checked_commutes (recordError_withDin32 · d s) (fun hcnt _ => ?_) h
  obtain ⟨-, h3⟩ : 1 ≤ cnt.toNat ∧ cnt.toNat ≤ 3 := by simpa [tail32CntOk] using hcnt
  have htail : tailK32 cnt.toNat (inputByte32 (withDin32 d s)) = tailK32 cnt.toNat (inputByte32 s) :=
    tailK32_congr (hbytes h3)
  simp only [htail]
  rfl

/-- TAIL128 on another input that agrees below CNT (R87). -/
theorem exec_tail128_withDin128Of {cnt : BitVec 4} {u s t : State}
    (hbytes : ∀ j < cnt.toNat, inputByte128 (withDin128Of u s) j = inputByte128 s j)
    (h : exec (.tail128 cnt) s = .next t) :
    exec (.tail128 cnt) (withDin128Of u s) = .next (withDin128Of u t) := by
  rw [exec_tail128] at h ⊢
  refine checked_commutes (recordError_withDin128Of · u s) (fun _ _ => ?_) h
  simp only [tail128_congr hbytes]
  rfl

/-- Settles O26: the tails read their input through `tailK32` and `tail128`, which see the bytes below CNT alone. -/
theorem tailsIgnoreTheBytesAboveTheCount : Obligations.TailsIgnoreTheBytesAboveTheCount := by
  constructor
  · intro s t cnt d hbytes h
    refine exec_tail32_withDin32 (fun h3 j hj => BitVec.eq_of_toNat_eq ?_) h
    rw [inputByte32, byteOf_toNat, byteOf_toNat, hbytes j hj (by omega)]
  · intro s t u cnt hu hbytes h
    have hu' : withDin128Of u s = u := hu.symm
    have hexec := exec_tail128_withDin128Of (hu'.symm ▸ hbytes) h
    rwa [hu'] at hexec

end Sys2Proof.Proofs
end

section
/-! The mixing functions (40_primitives.md R100 to R105), over words of every width: a rotation moves each bit, and an
avalanche is a chain of xor-shifts and multiplications by odd constants, each of them invertible. -/

namespace Sys2Proof.Proofs

open Sys2Proof Sys2Proof.Machine Sys2Proof.Laws

/-! ### Rotations (R100, R101) -/

/-- The two shifts of a rotation as arithmetic (R100, R101). -/
theorem rotateLeft_eq_ofNat_or_ofNat {w r : Nat} (x : BitVec w) (hr : r < w) :
    x.rotateLeft r = BitVec.ofNat w (x.toNat * 2 ^ r) ||| BitVec.ofNat w (x.toNat / 2 ^ (w - r)) := by
  have hleft : x <<< r = BitVec.ofNat w (x.toNat * 2 ^ r) :=
    BitVec.eq_of_toNat_eq (by simp [Nat.shiftLeft_eq])
  have hright : x >>> (w - r) = BitVec.ofNat w (x.toNat / 2 ^ (w - r)) := by
    rw [← Nat.shiftRight_eq_div_pow, ← BitVec.toNat_ushiftRight, BitVec.ofNat_toNat, BitVec.setWidth_eq]
  rw [BitVec.rotateLeft_def, Nat.mod_eq_of_lt hr, hleft, hright]

/-- A rotation by `r` moves bit `i` to bit `(i + r) mod w` (R100). -/
theorem getLsbD_rotateLeft_add_mod {w r i : Nat} (x : BitVec w) (hr : r < w) (hi : i < w) :
    (x.rotateLeft r).getLsbD ((i + r) % w) = x.getLsbD i := by
  rw [BitVec.getLsbD_rotateLeft, Nat.mod_eq_of_lt hr]
  by_cases hwrap : i + r < w
  · rw [Nat.mod_eq_of_lt hwrap]
    simp [hwrap]
  · have hmod : (i + r) % w = i + r - w := by
      rw [Nat.mod_eq_sub_mod (by omega), Nat.mod_eq_of_lt (by omega)]
    simp [hmod, show i + r - w < r by omega, show w - r + (i + r - w) = i by omega]

/-- A word whose bit `(i + r) mod w` is bit `i` of `x` is the rotation of `x` by `r`: every bit is met. -/
theorem eq_rotateLeft_of_bits {w r : Nat} {x y : BitVec w} (hr : r < w)
    (hbits : ∀ i < w, y.getLsbD ((i + r) % w) = x.getLsbD i) : y = x.rotateLeft r := by
  refine BitVec.eq_of_getLsbD_eq fun k hk => ?_
  have hi : (k + (w - r)) % w < w := Nat.mod_lt _ (by omega)
  have hk' : ((k + (w - r)) % w + r) % w = k := by
    rw [Nat.mod_add_mod, show k + (w - r) + r = k + w by omega, Nat.add_mod_right, Nat.mod_eq_of_lt hk]
  rw [← hk', hbits _ hi, getLsbD_rotateLeft_add_mod x hr hi]

/-- Rotations add up (R105). -/
theorem rotateLeft_rotateLeft {w a b : Nat} (x : BitVec w) (hab : a + b < w) :
    (x.rotateLeft a).rotateLeft b = x.rotateLeft (a + b) := by
  refine eq_rotateLeft_of_bits hab fun i hi => ?_
  have hsteps : (i + (a + b)) % w = ((i + a) % w + b) % w := by rw [Nat.mod_add_mod, Nat.add_assoc]
  rw [hsteps, getLsbD_rotateLeft_add_mod _ (by omega) (Nat.mod_lt _ (by omega)),
    getLsbD_rotateLeft_add_mod _ (by omega) hi]

/-- All ones are fixed by the rotations (R105). -/
theorem rotateLeft_allOnes {w r : Nat} (hr : r < w) : (BitVec.allOnes w).rotateLeft r = BitVec.allOnes w := by
  refine (eq_rotateLeft_of_bits hr fun i hi => ?_).symm
  have hmoved : (i + r) % w < w := Nat.mod_lt _ (by omega)
  simp [hi, hmoved]

/-- Settles O23: the rotation is Lean's, in arithmetic and bit by bit. -/
theorem rotl32MovesEveryBit : Obligations.Rotl32MovesEveryBit := by
  intro x r _ hr
  rw [rotl32_eq_rotateLeft x hr]
  exact ⟨rotateLeft_eq_ofNat_or_ofNat x hr, fun _ => getLsbD_rotateLeft_add_mod x hr⟩

/-- Settles O24: the rotation is Lean's, in arithmetic and bit by bit. -/
theorem rotl64MovesEveryBit : Obligations.Rotl64MovesEveryBit := by
  intro x r _ hr
  rw [rotl64_eq_rotateLeft x hr]
  exact ⟨rotateLeft_eq_ofNat_or_ofNat x hr, fun _ => getLsbD_rotateLeft_add_mod x hr⟩

/-! ### Avalanches (R102, R103) -/

/-- One xor-shift step of an avalanche, `h ^ (h >> n)` (R105). -/
def xorShift {w : Nat} (n : Nat) (h : BitVec w) : BitVec w := h ^^^ (h >>> n)

/-- fmix32 is xor-shifts and multiplications in turn (R102). -/
theorem fmix32_eq_comp :
    fmix32 = xorShift 16 ∘ (· * 0xc2b2ae35) ∘ xorShift 13 ∘ (· * 0x85ebca6b) ∘ xorShift 16 := rfl

/-- fmix64 is xor-shifts and multiplications in turn (R103). -/
theorem fmix64_eq_comp :
    fmix64 = xorShift 33 ∘ (· * 0xc4ceb9fe1a85ec53) ∘ xorShift 33 ∘ (· * 0xff51afd7ed558ccd) ∘ xorShift 33 := rfl

/-- Only 0 is its own shift to the right. -/
theorem eq_zero_of_eq_ushiftRight {w n : Nat} {z : BitVec w} (hn : 0 < n) (hz : z = z >>> n) : z = 0#w := by
  have hdiv : z.toNat / 2 ^ n = z.toNat := by
    rw [← Nat.shiftRight_eq_div_pow, ← BitVec.toNat_ushiftRight, ← hz]
  exact BitVec.eq_of_toNat_eq ((Nat.div_eq_self.1 hdiv).resolve_right (Nat.one_lt_two_pow hn.ne').ne')

/-- An xor-shift step is invertible: the difference of two words it does not tell apart is its own shift (R105). -/
theorem xorShift_injective {w n : Nat} (hn : 0 < n) : Function.Injective (xorShift n : BitVec w → BitVec w) := by
  intro x y h
  have hdiff : (x ^^^ y) ^^^ (x ^^^ y) >>> n = 0#w := by
    rw [← BitVec.xor_eq_zero_iff] at h
    rw [BitVec.ushiftRight_xor_distrib, ← h, xorShift, xorShift]
    ac_rfl
  rw [BitVec.xor_eq_zero_iff] at hdiff
  exact BitVec.xor_eq_zero_iff.1 (eq_zero_of_eq_ushiftRight hn hdiff)

/-- Multiplication by an odd constant is invertible modulo 2^w (R105). -/
theorem mul_const_injective_of_odd {w : Nat} {c : BitVec w} (hc : Odd c.toNat) :
    Function.Injective (· * c : BitVec w → BitVec w) := by
  intro x y h
  have hmod : x.toNat * c.toNat ≡ y.toNat * c.toNat [MOD 2 ^ w] := by
    simpa only [Nat.ModEq, BitVec.toNat_mul] using congrArg BitVec.toNat h
  have hcoprime : Nat.gcd (2 ^ w) c.toNat = 1 := Nat.Coprime.pow_left w (Nat.coprime_two_left.2 hc)
  exact BitVec.eq_of_toNat_eq ((hmod.cancel_right_of_coprime hcoprime).eq_of_lt_of_lt x.isLt y.isLt)

/-- An injective function on words of one width is a bijection. -/
theorem bijective_of_injective {w : Nat} {f : BitVec w → BitVec w} (hf : Function.Injective f) :
    Function.Bijective f :=
  have : Finite (BitVec w) := Finite.of_injective _ BitVec.toFin_injective
  Finite.injective_iff_bijective.1 hf

/-- Three xor-shifts with a multiplication by an odd constant between each two are a bijection (R105). -/
theorem avalanche_bijective {w n₁ n₂ n₃ : Nat} {c₁ c₂ : BitVec w} (h₁ : 0 < n₁) (hc₁ : Odd c₁.toNat) (h₂ : 0 < n₂)
    (hc₂ : Odd c₂.toNat) (h₃ : 0 < n₃) :
    Function.Bijective (xorShift n₃ ∘ (· * c₂) ∘ xorShift n₂ ∘ (· * c₁) ∘ xorShift n₁) :=
  bijective_of_injective <| (xorShift_injective h₃).comp <| (mul_const_injective_of_odd hc₂).comp <|
    (xorShift_injective h₂).comp <| (mul_const_injective_of_odd hc₁).comp <| xorShift_injective h₁

theorem fmix32_bijective : Function.Bijective fmix32 := by
  rw [fmix32_eq_comp]
  exact avalanche_bijective (by decide) (by decide) (by decide) (by decide) (by decide)

theorem fmix64_bijective : Function.Bijective fmix64 := by
  rw [fmix64_eq_comp]
  exact avalanche_bijective (by decide) (by decide) (by decide) (by decide) (by decide)

/-- Settles O25: the rotations by `rotateLeft_allOnes` and `rotateLeft_rotateLeft`, the avalanches step by step. -/
theorem primitivesObeyTheirLaws : Obligations.PrimitivesObeyTheirLaws := by
  refine ⟨rfl, rfl, fun r _ hr => ⟨?_, ?_⟩, fun x a b _ hab => ?_, fmix32_bijective, fmix64_bijective⟩
  · simp [rotl32]
  · rw [rotl32_eq_rotateLeft _ hr]
    exact rotateLeft_allOnes hr
  · rw [rotl32_eq_rotateLeft x (by omega), rotl32_eq_rotateLeft _ (by omega), rotl32_eq_rotateLeft x hab,
      rotateLeft_rotateLeft x hab]

end Sys2Proof.Proofs
end

section
/-! The commands of P (40_primitives.md R106 to R109): PY is the primitive of PX, and a word of their opcodes with a
field out of place raises BAD_FIELD. -/

namespace Sys2Proof.Proofs

open Sys2Proof Sys2Proof.Machine Sys2Proof.Safety Sys2Proof.Laws

/-! ### What the four commands share -/

/-- A number that is a command's word decodes to it (R91). -/
theorem decode_ofNat_encode {i : Instr} {n : Nat} (h : (encode i).toNat = n) :
    decode (BitVec.ofNat 32 n) = .ok i := by
  rw [← h, BitVec.ofNat_toNat, BitVec.setWidth_eq, decode_encode]

/-- A write of a word of a defined opcode whose RSV is not 0 or whose CNT or ROT fails R83 raises BAD_FIELD (R81). -/
theorem stepOf_bad_field {w : Word} (s : State) (h13 : w.toNat % 16 ≠ 13) (h14 : w.toNat % 16 ≠ 14)
    (hbad : w.toNat / 16384 ≠ 0 ∨ ¬ FieldsOk (w.toNat % 16) (w.toNat / 16 % 16) (w.toNat / 256 % 64)) :
    stepOf (.write 0x04 .four w) s = .next (answered 0 false (raised 2 s)) := by
  obtain ⟨-, hraise, -, -⟩ := commandWriteMakesTheChecksInOrder s w
  exact hraise ⟨h13, h14, hbad⟩

/-- A rotation's word with a nonzero CNT or RSV raises BAD_FIELD (R106, R107). -/
theorem stepOf_rotation_bad_field {w : Word} (s : State) (hop : w.toNat % 16 = 9 ∨ w.toNat % 16 = 10)
    (hbad : w.toNat / 16 % 16 ≠ 0 ∨ w.toNat / 16384 ≠ 0) :
    stepOf (.write 0x04 .four w) s = .next (answered 0 false (raised 2 s)) := by
  refine stepOf_bad_field s (by omega) (by omega) (hbad.symm.imp_right fun hcnt hf => ?_)
  unfold FieldsOk at hf
  omega

/-- A word of FMIX32's or FMIX64's opcode that is more than the opcode raises BAD_FIELD (R108, R109). -/
theorem stepOf_fmix_bad_field {w : Word} (s : State) (hop : w.toNat % 16 = 11 ∨ w.toNat % 16 = 12)
    (hne : w.toNat ≠ w.toNat % 16) :
    stepOf (.write 0x04 .four w) s = .next (answered 0 false (raised 2 s)) := by
  refine stepOf_bad_field s (by omega) (by omega) (or_iff_not_imp_left.2 fun hrsv hf => ?_)
  unfold FieldsOk at hf
  omega

/-! ### ROTL32 and ROTL64 -/

theorem exec_rotl32_of_rot {rot : BitVec 6} (s : State) (h1 : 1 ≤ rot.toNat) (h31 : rot.toNat ≤ 31) :
    exec (.rotl32 rot) s = .next { s with py := ((s.px.setWidth 32).rotateLeft rot.toNat).setWidth 64 } := by
  have hok : rotl32RotOk rot = true := by simp [rotl32RotOk, h1, h31]
  rw [exec_rotl32, hok, checked_true, rotl32_eq_rotateLeft _ (by omega), primOperand32, lowWord_eq_setWidth, setPY]

theorem exec_rotl64_of_rot {rot : BitVec 6} (s : State) (h1 : 1 ≤ rot.toNat) :
    exec (.rotl64 rot) s = .next { s with py := s.px.rotateLeft rot.toNat } := by
  have h63 : rot.toNat ≤ 63 := by have := rot.isLt; omega
  have hok : rotl64RotOk rot = true := by simp [rotl64RotOk, h1, h63]
  rw [exec_rotl64, hok, checked_true, rotl64_eq_rotateLeft _ (by omega), primOperand64, setPY]

/-- Settles O19: `exec_rotl32_of_rot` with ROT in range, the field checks of R81 and R83 elsewhere. -/
theorem rotl32RotatesTheLowHalf : Obligations.Rotl32RotatesTheLowHalf := by
  intro s rot
  refine ⟨fun ⟨h1, h31⟩ => exec_rotl32_of_rot s h1 h31, fun hrot => exec_of_not_wellFormed s ?_,
    decode_ofNat_encode (encode_rotl32_toNat rot), fun w hop => stepOf_rotation_bad_field s (.inl hop)⟩
  simp only [Instr.wellFormed, decide_eq_false_iff_not]
  omega

/-- Settles O20: `exec_rotl64_of_rot` with ROT in range, the field checks of R81 and R83 elsewhere. -/
theorem rotl64RotatesTheWhole : Obligations.Rotl64RotatesTheWhole := by
  intro s rot
  refine ⟨exec_rotl64_of_rot s, fun hrot => exec_of_not_wellFormed s ?_,
    decode_ofNat_encode (encode_rotl64_toNat rot), fun w hop => stepOf_rotation_bad_field s (.inr hop)⟩
  simp only [Instr.wellFormed, decide_eq_false_iff_not]
  omega

/-! ### FMIX32 and FMIX64 -/

theorem exec_fmix32_eq (s : State) :
    exec .fmix32 s = .next { s with py := (fmix32 (s.px.setWidth 32)).setWidth 64 } := by
  rw [exec_fmix32, checked_true, primOperand32, lowWord_eq_setWidth, setPY]

theorem exec_fmix64_eq (s : State) : exec .fmix64 s = .next { s with py := fmix64 s.px } := by
  rw [exec_fmix64, checked_true, primOperand64, setPY]

/-- Settles O21: the lines of R102 are those of `fmix32`. -/
theorem fmix32MixesTheLowHalf : Obligations.Fmix32MixesTheLowHalf := by
  intro s
  exact ⟨⟨_, _, _, _, _, rfl, rfl, rfl, rfl, rfl, exec_fmix32_eq s⟩, decode_encode .fmix32,
    fun w hop hne => stepOf_fmix_bad_field s (.inl hop) (by bv_omega)⟩

/-- Settles O22: the lines of R103 are those of `fmix64`. -/
theorem fmix64MixesTheWhole : Obligations.Fmix64MixesTheWhole := by
  intro s
  exact ⟨⟨_, _, _, _, rfl, rfl, rfl, rfl, exec_fmix64_eq s⟩, decode_encode .fmix64,
    fun w hop hne => stepOf_fmix_bad_field s (.inr hop) (by bv_omega)⟩

end Sys2Proof.Proofs
end

section
/-! The commands of U32 (41_murmur3_32.md R124 to R127): what each does when its checks pass, with the functions of
R120 to R123 written out, and when it raises. -/

namespace Sys2Proof.Proofs

open Sys2Proof Sys2Proof.Machine Sys2Proof.Safety Sys2Proof.Laws

/-! ### The functions of the 32-bit algorithm in Lean's own operations -/

/-- The key-word mix (R121) with its constants (R120). -/
theorem mixK32_eq (k : Word) : mixK32 k = (k * 0xcc9e2d51).rotateLeft 15 * 0x1b873593 := by
  simp only [mixK32, rotl32_eq_rotateLeft _ (show 15 < 32 by decide), c1_32, c2_32]

/-- The block step (R122) with its constants. -/
theorem block32_eq (h k : Word) : block32 h k = (h ^^^ mixK32 k).rotateLeft 13 * 5 + 0xe6546b64 := by
  simp only [block32, rotl32_eq_rotateLeft _ (show 13 < 32 by decide)]

/-- The tail word of DIN32 is its low `t` bytes as a number (R123, R86). -/
theorem tailK32_inputByte32 (s : State) (t : Nat) :
    tailK32 t (inputByte32 s) = BitVec.ofNat 32 (s.din32.toNat % 2 ^ (8 * t)) :=
  (foldTail32_bytes s.din32 t 0).trans BitVec.zero_xor

/-! ### The commands whose checks pass -/

theorem exec_init32_eq (s : State) : exec .init32 s = .next (setU32 s.seed32 0 .absorb s) := by
  rw [exec_init32, checked_true]

theorem exec_block32_of_absorb {s : State} (hp : s.phase32 = .absorb) :
    exec .block32 s = .next (setU32 (block32 s.h32 s.din32) (s.len32 + 4) .absorb s) := by
  rw [exec_block32, absorbLegal_iff.2 hp, checked_true, hp]

theorem exec_tail32_of_absorb {s : State} {cnt : BitVec 4} (hp : s.phase32 = .absorb)
    (hc : 1 ≤ cnt.toNat ∧ cnt.toNat ≤ 3) :
    exec (.tail32 cnt) s = .next (setU32 (s.h32 ^^^ mixK32 (tailK32 cnt.toNat (inputByte32 s)))
      (s.len32 + BitVec.ofNat 32 cnt.toNat) .tailed s) := by
  have hok : (Instr.tail32 cnt).wellFormed = true := decide_eq_true hc
  rw [exec_tail32, tail32CntOk_eq_wellFormed, hok, absorbLegal_iff.2 hp, checked_true, BitVec.ofNat_toNat]

theorem exec_final32_of_phase {s : State} (hp : s.phase32 = .absorb ∨ s.phase32 = .tailed) :
    exec .final32 s = .next (setU32 (final32 s.h32 s.len32) s.len32 .done s) := by
  rw [exec_final32, finalLegal_iff.2 hp, checked_true]

/-! ### The commands that raise -/

theorem exec_block32_out_of_phase {s : State} (hp : s.phase32 ≠ .absorb) : exec .block32 s = .next (raised 3 s) :=
  exec_of_phase_illegal rfl (absorbLegal_of_ne hp)

theorem exec_tail32_out_of_phase {s : State} {cnt : BitVec 4} (hp : s.phase32 ≠ .absorb)
    (hc : 1 ≤ cnt.toNat ∧ cnt.toNat ≤ 3) : exec (.tail32 cnt) s = .next (raised 3 s) :=
  exec_of_phase_illegal (decide_eq_true hc) (absorbLegal_of_ne hp)

theorem exec_tail32_bad_count (s : State) {cnt : BitVec 4} (hc : ¬ (1 ≤ cnt.toNat ∧ cnt.toNat ≤ 3)) :
    exec (.tail32 cnt) s = .next (raised 2 s) :=
  exec_of_not_wellFormed s (decide_eq_false hc)

theorem exec_final32_out_of_phase {s : State} (hp : s.phase32 = .idle ∨ s.phase32 = .done) :
    exec .final32 s = .next (raised 3 s) :=
  exec_of_phase_illegal rfl (finalLegal_eq_false_iff.2 hp)

/-- A word that is more than its opcode raises BAD_FIELD, where the opcode carries neither CNT nor ROT (R83). -/
theorem stepOf_plain_bad_field {w : Word} {op : Nat} (s : State) (hop : w.toNat % 16 = op)
    (hplain : op ∉ [3, 7, 9, 10, 13, 14]) (hne : w ≠ BitVec.ofNat 32 op) :
    stepOf (.write 0x04 .four w) s = .next (answered 0 false (raised 2 s)) := by
  have hlt : op < 16 := hop ▸ Nat.mod_lt _ (by decide)
  have hmore : w.toNat ≠ op := fun h => hne (by rw [← h, BitVec.ofNat_toNat, BitVec.setWidth_eq])
  simp only [List.mem_cons, List.not_mem_nil, or_false, not_or] at hplain
  refine stepOf_bad_field s (by omega) (by omega) (or_iff_not_imp_left.2 fun hrsv hf => ?_)
  unfold FieldsOk at hf
  omega

/-- A tail's word with a nonzero ROT or RSV raises BAD_FIELD (R126, R157). -/
theorem stepOf_tail_bad_field {w : Word} (s : State) (hop : w.toNat % 16 = 3 ∨ w.toNat % 16 = 7)
    (hbad : w.toNat / 256 ≠ 0) :
    stepOf (.write 0x04 .four w) s = .next (answered 0 false (raised 2 s)) := by
  refine stepOf_bad_field s (by omega) (by omega) (or_iff_not_imp_left.2 fun hrsv hf => ?_)
  unfold FieldsOk at hf
  omega

/-! ### The obligations -/

/-- Settles O11: INIT32 makes no check; the words of its opcode by `stepOf_plain_bad_field`. -/
theorem init32LoadsTheSeed : Obligations.Init32LoadsTheSeed := fun s =>
  ⟨exec_init32_eq s, decode_encode .init32, fun _ hop hne => stepOf_plain_bad_field s hop (by decide) hne⟩

/-- Settles O12: `exec_block32_of_absorb` with the block step written out; out of phase SEQUENCE. -/
theorem block32AbsorbsTheBlock : Obligations.Block32AbsorbsTheBlock := by
  intro s
  refine ⟨fun hp => ?_, exec_block32_out_of_phase, decode_encode .block32,
    fun _ hop hne => stepOf_plain_bad_field s hop (by decide) hne⟩
  rw [exec_block32_of_absorb hp, block32_eq, mixK32_eq, ← hp]
  rfl

/-- Settles O13: `exec_tail32_of_absorb` with the tail word as a number and the mix written out; BAD_FIELD comes before
SEQUENCE because the count is checked first. -/
theorem tail32FoldsTheLowBytes : Obligations.Tail32FoldsTheLowBytes := by
  intro s cnt
  refine ⟨fun hc hp => ?_, fun hc hp => exec_tail32_out_of_phase hp hc,
    fun hc => exec_tail32_bad_count s (by omega), decode_ofNat_encode (encode_tail32_toNat cnt),
    fun _ hop => stepOf_tail_bad_field s (.inl hop)⟩
  rw [exec_tail32_of_absorb hp hc, mixK32_eq, tailK32_inputByte32]
  rfl

/-- Settles O14: the lines of R102 are those of `fmix32`, which FINAL32 applies to H32 ^ LEN32. -/
theorem final32GivesTheAvalanche : Obligations.Final32GivesTheAvalanche := fun s =>
  ⟨fun hp => ⟨_, _, _, _, _, rfl, rfl, rfl, rfl, rfl, exec_final32_of_phase hp⟩, exec_final32_out_of_phase,
    decode_encode .final32, fun _ hop hne => stepOf_plain_bad_field s hop (by decide) hne⟩

end Sys2Proof.Proofs
end

section
/-! A key with more bytes delivered at its end: what the whole hashes (41_murmur3_32.md R128, 42_murmur3_128.md R159) make
of one more block and of a tail. -/

namespace Sys2Proof.Proofs

open Sys2Proof Sys2Proof.Machine Sys2Proof.Safety Sys2Proof.Laws

@[simp] theorem length_lowInput32 (s : State) (t : Nat) : (lowInput32 s t).length = t := by simp [lowInput32]
@[simp] theorem length_lowInput128 (s : State) (t : Nat) : (lowInput128 s t).length = t := by simp [lowInput128]

@[simp] theorem delivered_append_seed (d : Delivered) (b : List Byte) : (d.append b).seed = d.seed := rfl
@[simp] theorem delivered_append_key (d : Delivered) (b : List Byte) : (d.append b).key = d.key ++ b := rfl

/-! ### The 32-bit hash -/

/-- One delivered block is one block step (R125, R128). -/
theorem absorb32_append_block {key : List Byte} (hk : key.length % 4 = 0) (seed : Word) (s : State) :
    absorb32 (key ++ lowInput32 s 4) seed ((key ++ lowInput32 s 4).length / 4)
      = block32 (absorb32 key seed (key.length / 4)) s.din32 := by
  have hm : (key ++ lowInput32 s 4).length / 4 = key.length / 4 + 1 := by simp
  rw [hm, absorb32_succ, absorb32_prefix _ _ _ _ (by omega), keyWord_append_lowInput32 s key _ (by omega)]

/-- Fewer bytes than a block leave the accumulator of the blocks as it is (R128). -/
theorem absorb32_append_tail {key : List Byte} (hk : key.length % 4 = 0) (seed : Word) (s : State) {t : Nat}
    (ht : t < 4) :
    absorb32 (key ++ lowInput32 s t) seed ((key ++ lowInput32 s t).length / 4)
      = absorb32 key seed (key.length / 4) := by
  have hm : (key ++ lowInput32 s t).length / 4 = key.length / 4 := by
    rw [List.length_append, length_lowInput32]; omega
  rw [hm, absorb32_prefix _ _ _ _ (by omega)]

/-- A key of whole blocks has no tail step (R128). -/
theorem foldKeyTail32_of_blocks {key : List Byte} (hk : key.length % 4 = 0) (h : Word) : foldKeyTail32 key h = h := by
  simp [foldKeyTail32, hk]

/-- The delivered tail is the tail of the whole hash (R126, R128). -/
theorem foldKeyTail32_append_tail {key : List Byte} (hk : key.length % 4 = 0) (h : Word) (s : State) {t : Nat}
    (ht : 1 ≤ t ∧ t ≤ 3) :
    foldKeyTail32 (key ++ lowInput32 s t) h = h ^^^ mixK32 (tailK32 t (inputByte32 s)) := by
  have hm : 4 * ((key.length + t) / 4) = key.length := by omega
  have hr : (key.length + t) % 4 = t := by omega
  have hbytes : ∀ j < t, keyByte (key ++ lowInput32 s t) (key.length + j) = inputByte32 s j := fun j hj =>
    (keyByte_append_right key _ j).trans (keyByte_low (inputByte32 s) t j hj)
  simp only [foldKeyTail32, List.length_append, length_lowInput32, hm, hr, tailK32_congr hbytes,
    if_pos (show t > 0 by omega)]

/-! ### The 128-bit hash -/

/-- One delivered block is one block step (R156, R159). -/
theorem absorb128_append_block {key : List Byte} (hk : key.length % 16 = 0) (seed : Word) (s : State) :
    absorb128 (key ++ lowInput128 s 16) seed ((key ++ lowInput128 s 16).length / 16)
      = block128 (absorb128 key seed (key.length / 16)).1 (absorb128 key seed (key.length / 16)).2
          (blockWord1 s) (blockWord2 s) := by
  have hm : (key ++ lowInput128 s 16).length / 16 = key.length / 16 + 1 := by simp
  obtain ⟨h1, h2⟩ := keyDWord_append_lowInput128 s key (16 * (key.length / 16)) (by omega)
  rw [hm, absorb128_succ, absorb128_prefix _ _ _ _ (by omega), h1, h2]

/-- Fewer bytes than a block leave the lanes of the blocks as they are (R159). -/
theorem absorb128_append_tail {key : List Byte} (hk : key.length % 16 = 0) (seed : Word) (s : State) {t : Nat}
    (ht : t < 16) :
    absorb128 (key ++ lowInput128 s t) seed ((key ++ lowInput128 s t).length / 16)
      = absorb128 key seed (key.length / 16) := by
  have hm : (key ++ lowInput128 s t).length / 16 = key.length / 16 := by
    rw [List.length_append, length_lowInput128]; omega
  rw [hm, absorb128_prefix _ _ _ _ (by omega)]

/-- A key of whole blocks has no tail step (R159). -/
theorem foldKeyTail128_of_blocks {key : List Byte} (hk : key.length % 16 = 0) (h : DWord × DWord) :
    foldKeyTail128 key h = h := by
  simp [foldKeyTail128, hk]

/-- The delivered tail is the tail of the whole hash (R157, R159). -/
theorem foldKeyTail128_append_tail {key : List Byte} (hk : key.length % 16 = 0) (h : DWord × DWord) (s : State)
    {t : Nat} (ht : 1 ≤ t ∧ t ≤ 15) :
    foldKeyTail128 (key ++ lowInput128 s t) h = tail128 t (inputByte128 s) h.1 h.2 := by
  have hm : 16 * ((key.length + t) / 16) = key.length := by omega
  have hr : (key.length + t) % 16 = t := by omega
  have hbytes : ∀ j < t, keyByte (key ++ lowInput128 s t) (key.length + j) = inputByte128 s j := fun j hj =>
    (keyByte_append_right key _ j).trans (keyByte_low (inputByte128 s) t j hj)
  simp only [foldKeyTail128, List.length_append, length_lowInput128, hm, hr, tail128_congr hbytes,
    if_pos (show t > 0 by omega)]

end Sys2Proof.Proofs
end

section
/-! What U32 holds (41_murmur3_32.md R131): every command of the unit keeps it at what the algorithm holds after the key
bytes delivered so far. -/

namespace Sys2Proof.Proofs

open Sys2Proof Sys2Proof.Machine Sys2Proof.Safety Sys2Proof.Laws

/-! ### What U32 holds, by its phase -/

/-- What U32 holds is said of its results alone. -/
theorem holds32_congr {d : Option Delivered} {s t : State} (h : resultsU32 t = resultsU32 s) :
    holds32 d t ↔ holds32 d s := by
  obtain ⟨hh, hn, hp⟩ := resultsU32_eq_iff.1 h
  simp only [holds32, hh, hn, hp]

theorem holds32_some_of_absorb {d : Delivered} {s : State} (hp : s.phase32 = .absorb) :
    holds32 (some d) s ↔ s.len32 = BitVec.ofNat 32 d.key.length ∧ d.key.length % 4 = 0 ∧
      s.h32 = absorb32 d.key d.seed (d.key.length / 4) := by
  simp only [holds32, hp]

theorem holds32_some_of_tailed {d : Delivered} {s : State} (hp : s.phase32 = .tailed) :
    holds32 (some d) s ↔ s.len32 = BitVec.ofNat 32 d.key.length ∧
      s.h32 = foldKeyTail32 d.key (absorb32 d.key d.seed (d.key.length / 4)) := by
  simp only [holds32, hp]

theorem holds32_some_of_done {d : Delivered} {s : State} (hp : s.phase32 = .done) :
    holds32 (some d) s ↔ s.len32 = BitVec.ofNat 32 d.key.length ∧ s.h32 = hash32 d.key d.seed := by
  simp only [holds32, hp]

/-- Outside IDLE something has been delivered: an INIT32 at least. -/
theorem delivered_of_holds32 {d : Option Delivered} {s : State} (h : holds32 d s) (hp : s.phase32 ≠ .idle) :
    ∃ d', d = some d' := by
  cases d with
  | none => exact absurd h hp
  | some d' => exact ⟨d', rfl⟩

/-! ### Every command of U32 keeps what U32 holds -/

theorem exec_init32_holds32 {s u : State} (h : exec .init32 s = .next u) : holds32 (some ⟨s.seed32, []⟩) u := by
  rw [exec_init32_eq] at h; cases h
  rw [holds32_some_of_absorb (by simp)]
  simp [absorb32]

theorem exec_block32_holds32 {d : Delivered} {s u : State} (hp : s.phase32 = .absorb) (hd : holds32 (some d) s)
    (h : exec .block32 s = .next u) : holds32 (some (d.append (lowInput32 s 4))) u := by
  rw [exec_block32_of_absorb hp] at h; cases h
  obtain ⟨hn, hk, hh⟩ := (holds32_some_of_absorb hp).1 hd
  rw [holds32_some_of_absorb (by simp)]
  refine ⟨by simp [hn, BitVec.ofNat_add], by simpa using hk, ?_⟩
  rw [setU32_h32, hh, delivered_append_key, delivered_append_seed, absorb32_append_block hk]

theorem exec_tail32_holds32 {d : Delivered} {c : BitVec 4} {s u : State} (hp : s.phase32 = .absorb)
    (hc : 1 ≤ c.toNat ∧ c.toNat ≤ 3) (hd : holds32 (some d) s) (h : exec (.tail32 c) s = .next u) :
    holds32 (some (d.append (lowInput32 s c.toNat))) u := by
  rw [exec_tail32_of_absorb hp hc] at h; cases h
  obtain ⟨hn, hk, hh⟩ := (holds32_some_of_absorb hp).1 hd
  rw [holds32_some_of_tailed (by simp)]
  refine ⟨by simp [hn, BitVec.ofNat_add], ?_⟩
  rw [setU32_h32, hh, delivered_append_key, delivered_append_seed, absorb32_append_tail hk d.seed s (by omega),
    foldKeyTail32_append_tail hk _ s hc]

theorem exec_final32_holds32 {d : Delivered} {s u : State} (hp : s.phase32 = .absorb ∨ s.phase32 = .tailed)
    (hd : holds32 (some d) s) (h : exec .final32 s = .next u) : holds32 (some d) u := by
  rw [exec_final32_of_phase hp] at h; cases h
  obtain ⟨hn, hh⟩ : s.len32 = BitVec.ofNat 32 d.key.length ∧
      s.h32 = foldKeyTail32 d.key (absorb32 d.key d.seed (d.key.length / 4)) := by
    rcases hp with hp | hp
    · obtain ⟨hn, hk, hh⟩ := (holds32_some_of_absorb hp).1 hd
      exact ⟨hn, by rw [foldKeyTail32_of_blocks hk, hh]⟩
    · exact (holds32_some_of_tailed hp).1 hd
  rw [holds32_some_of_done (by simp), setU32_len32, setU32_h32, hash32, ← hh, ← hn]
  exact ⟨rfl, rfl⟩

/-- An error is no result: what a command that raises leaves in U32. -/
theorem holds32_raised {d : Option Delivered} {c : BitVec 4} {s : State} : holds32 d (raised c s) ↔ holds32 d s :=
  holds32_congr rfl

/-- What a command leaves in U32 is what the event that brings it delivers there. -/
theorem exec_holds32 {d : Option Delivered} {e : HostEvent} {i : Instr} {s u : State} (hc : commandOf e = some i)
    (hd : holds32 d s) (h : exec i s = .next u) : holds32 (track32 s e d) u := by
  have hne : e ≠ .reset := by rintro rfl; cases hc
  simp only [track32, if_neg hne, hc]
  cases i with
  | init32 => exact exec_init32_holds32 h
  | block32 =>
    by_cases hp : s.phase32 = .absorb
    · obtain ⟨d, rfl⟩ := delivered_of_holds32 hd (by simp [hp])
      simpa only [if_pos hp, Option.map_some] using exec_block32_holds32 hp hd h
    · rw [exec_block32_out_of_phase hp] at h; cases h
      simpa only [if_neg hp] using holds32_raised.2 hd
  | tail32 c =>
    by_cases hok : 1 ≤ c.toNat ∧ c.toNat ≤ 3
    · by_cases hp : s.phase32 = .absorb
      · obtain ⟨d, rfl⟩ := delivered_of_holds32 hd (by simp [hp])
        simpa only [if_pos (And.intro hp hok), Option.map_some] using exec_tail32_holds32 hp hok hd h
      · rw [exec_tail32_out_of_phase hp hok] at h; cases h
        simpa only [if_neg (mt And.left hp)] using holds32_raised.2 hd
    · rw [exec_tail32_bad_count s hok] at h; cases h
      simpa only [if_neg (mt And.right hok)] using holds32_raised.2 hd
  | final32 =>
    cases hp : finalLegal s.phase32 with
    | true =>
      have hp := finalLegal_iff.1 hp
      obtain ⟨d, rfl⟩ := delivered_of_holds32 hd (by rcases hp with hp | hp <;> simp [hp])
      exact exec_final32_holds32 hp hd h
    | false =>
      rw [exec_final32_out_of_phase (finalLegal_eq_false_iff.1 hp)] at h; cases h
      exact holds32_raised.2 hd
  | _ => exact (holds32_congr (isResultView_resultsU32.exec rfl h)).2 hd

end Sys2Proof.Proofs
end

section
/-! The commands of U128 (42_murmur3_128.md R155 to R158): what each does when its checks pass, and when it raises. -/

namespace Sys2Proof.Proofs

open Sys2Proof Sys2Proof.Machine Sys2Proof.Safety Sys2Proof.Laws

/-! ### The commands whose checks pass -/

theorem exec_init128_eq (s : State) : exec .init128 s = .next (setU128 (seedWide s) (seedWide s) 0 .absorb s) := by
  rw [exec_init128, checked_true]

theorem exec_block128_of_absorb {s : State} (hp : s.phase128 = .absorb) :
    exec .block128 s = .next (setU128 (block128 s.h1 s.h2 (blockWord1 s) (blockWord2 s)).1
      (block128 s.h1 s.h2 (blockWord1 s) (blockWord2 s)).2 (s.len128 + 16) .absorb s) := by
  rw [exec_block128, absorbLegal_iff.2 hp, checked_true, hp]

/-- The field CNT has no value above 15. -/
theorem tail128_wellFormed {cnt : BitVec 4} (hc : 1 ≤ cnt.toNat) : (Instr.tail128 cnt).wellFormed = true :=
  decide_eq_true ⟨hc, by omega⟩

theorem exec_tail128_of_absorb {s : State} {cnt : BitVec 4} (hp : s.phase128 = .absorb) (hc : 1 ≤ cnt.toNat) :
    exec (.tail128 cnt) s = .next (setU128 (tail128 cnt.toNat (inputByte128 s) s.h1 s.h2).1
      (tail128 cnt.toNat (inputByte128 s) s.h1 s.h2).2 (s.len128 + BitVec.ofNat 64 cnt.toNat) .tailed s) := by
  rw [exec_tail128, tail128CntOk_eq_wellFormed, tail128_wellFormed hc, absorbLegal_iff.2 hp, checked_true,
    BitVec.ofNat_toNat]

theorem exec_final128_of_phase {s : State} (hp : s.phase128 = .absorb ∨ s.phase128 = .tailed) :
    exec .final128 s = .next (setU128 (final128 s.h1 s.h2 s.len128).1 (final128 s.h1 s.h2 s.len128).2 s.len128
      .done s) := by
  rw [exec_final128, finalLegal_iff.2 hp, checked_true]

/-! ### The commands that raise -/

theorem exec_block128_out_of_phase {s : State} (hp : s.phase128 ≠ .absorb) :
    exec .block128 s = .next (raised 3 s) :=
  exec_of_phase_illegal rfl (absorbLegal_of_ne hp)

theorem exec_tail128_out_of_phase {s : State} {cnt : BitVec 4} (hp : s.phase128 ≠ .absorb) (hc : 1 ≤ cnt.toNat) :
    exec (.tail128 cnt) s = .next (raised 3 s) :=
  exec_of_phase_illegal (tail128_wellFormed hc) (absorbLegal_of_ne hp)

theorem exec_tail128_bad_count (s : State) {cnt : BitVec 4} (hc : ¬ 1 ≤ cnt.toNat) :
    exec (.tail128 cnt) s = .next (raised 2 s) :=
  exec_of_not_wellFormed s (decide_eq_false (mt And.left hc))

theorem exec_final128_out_of_phase {s : State} (hp : s.phase128 = .idle ∨ s.phase128 = .done) :
    exec .final128 s = .next (raised 3 s) :=
  exec_of_phase_illegal rfl (finalLegal_eq_false_iff.2 hp)

end Sys2Proof.Proofs
end

section
/-! What U128 holds (42_murmur3_128.md R161): every command of the unit keeps it at what the algorithm holds after the key
bytes delivered so far. -/

namespace Sys2Proof.Proofs

open Sys2Proof Sys2Proof.Machine Sys2Proof.Safety Sys2Proof.Laws

/-! ### What U128 holds, by its phase -/

/-- What U128 holds is said of its results alone. -/
theorem holds128_congr {d : Option Delivered} {s t : State} (h : resultsU128 t = resultsU128 s) :
    holds128 d t ↔ holds128 d s := by
  obtain ⟨h1, h2, hn, hp⟩ := resultsU128_eq_iff.1 h
  simp only [holds128, h1, h2, hn, hp]

theorem holds128_some_of_absorb {d : Delivered} {s : State} (hp : s.phase128 = .absorb) :
    holds128 (some d) s ↔ s.len128 = BitVec.ofNat 64 d.key.length ∧ d.key.length % 16 = 0 ∧
      (s.h1, s.h2) = absorb128 d.key d.seed (d.key.length / 16) := by
  simp only [holds128, hp]

theorem holds128_some_of_tailed {d : Delivered} {s : State} (hp : s.phase128 = .tailed) :
    holds128 (some d) s ↔ s.len128 = BitVec.ofNat 64 d.key.length ∧
      (s.h1, s.h2) = foldKeyTail128 d.key (absorb128 d.key d.seed (d.key.length / 16)) := by
  simp only [holds128, hp]

theorem holds128_some_of_done {d : Delivered} {s : State} (hp : s.phase128 = .done) :
    holds128 (some d) s ↔ s.len128 = BitVec.ofNat 64 d.key.length ∧ (s.h1, s.h2) = hash128 d.key d.seed := by
  simp only [holds128, hp]

/-- Outside IDLE something has been delivered: an INIT128 at least. -/
theorem delivered_of_holds128 {d : Option Delivered} {s : State} (h : holds128 d s) (hp : s.phase128 ≠ .idle) :
    ∃ d', d = some d' := by
  cases d with
  | none => exact absurd h hp
  | some d' => exact ⟨d', rfl⟩

/-! ### Every command of U128 keeps what U128 holds -/

theorem exec_init128_holds128 {s u : State} (h : exec .init128 s = .next u) :
    holds128 (some ⟨s.seed128, []⟩) u := by
  rw [exec_init128_eq] at h; cases h
  rw [holds128_some_of_absorb (by simp)]
  simp [absorb128, seedWide]

theorem exec_block128_holds128 {d : Delivered} {s u : State} (hp : s.phase128 = .absorb) (hd : holds128 (some d) s)
    (h : exec .block128 s = .next u) : holds128 (some (d.append (lowInput128 s 16))) u := by
  rw [exec_block128_of_absorb hp] at h; cases h
  obtain ⟨hn, hk, hh⟩ := (holds128_some_of_absorb hp).1 hd
  rw [holds128_some_of_absorb (by simp)]
  refine ⟨by simp [hn, BitVec.ofNat_add], by simpa using hk, ?_⟩
  rw [setU128_h1, setU128_h2, delivered_append_key, delivered_append_seed, absorb128_append_block hk, ← hh]

theorem exec_tail128_holds128 {d : Delivered} {c : BitVec 4} {s u : State} (hp : s.phase128 = .absorb)
    (hc : 1 ≤ c.toNat) (hd : holds128 (some d) s) (h : exec (.tail128 c) s = .next u) :
    holds128 (some (d.append (lowInput128 s c.toNat))) u := by
  have hc15 : c.toNat ≤ 15 := by have := c.isLt; omega
  rw [exec_tail128_of_absorb hp hc] at h; cases h
  obtain ⟨hn, hk, hh⟩ := (holds128_some_of_absorb hp).1 hd
  rw [holds128_some_of_tailed (by simp)]
  refine ⟨by simp [hn, BitVec.ofNat_add], ?_⟩
  rw [setU128_h1, setU128_h2, delivered_append_key, delivered_append_seed,
    absorb128_append_tail hk d.seed s (by omega), foldKeyTail128_append_tail hk _ s ⟨hc, hc15⟩, ← hh]

theorem exec_final128_holds128 {d : Delivered} {s u : State} (hp : s.phase128 = .absorb ∨ s.phase128 = .tailed)
    (hd : holds128 (some d) s) (h : exec .final128 s = .next u) : holds128 (some d) u := by
  rw [exec_final128_of_phase hp] at h; cases h
  obtain ⟨hn, hh⟩ : s.len128 = BitVec.ofNat 64 d.key.length ∧
      (s.h1, s.h2) = foldKeyTail128 d.key (absorb128 d.key d.seed (d.key.length / 16)) := by
    rcases hp with hp | hp
    · obtain ⟨hn, hk, hh⟩ := (holds128_some_of_absorb hp).1 hd
      exact ⟨hn, by rw [foldKeyTail128_of_blocks hk, hh]⟩
    · exact (holds128_some_of_tailed hp).1 hd
  rw [holds128_some_of_done (by simp), setU128_len128, setU128_h1, setU128_h2, hash128, ← hh, ← hn]
  exact ⟨rfl, rfl⟩

/-- An error is no result: what a command that raises leaves in U128. -/
theorem holds128_raised {d : Option Delivered} {c : BitVec 4} {s : State} : holds128 d (raised c s) ↔ holds128 d s :=
  holds128_congr rfl

/-- What a command leaves in U128 is what the event that brings it delivers there. -/
theorem exec_holds128 {d : Option Delivered} {e : HostEvent} {i : Instr} {s u : State} (hc : commandOf e = some i)
    (hd : holds128 d s) (h : exec i s = .next u) : holds128 (track128 s e d) u := by
  have hne : e ≠ .reset := by rintro rfl; cases hc
  simp only [track128, if_neg hne, hc]
  cases i with
  | init128 => exact exec_init128_holds128 h
  | block128 =>
    by_cases hp : s.phase128 = .absorb
    · obtain ⟨d, rfl⟩ := delivered_of_holds128 hd (by simp [hp])
      simpa only [if_pos hp, Option.map_some] using exec_block128_holds128 hp hd h
    · rw [exec_block128_out_of_phase hp] at h; cases h
      simpa only [if_neg hp] using holds128_raised.2 hd
  | tail128 c =>
    by_cases hok : 1 ≤ c.toNat
    · by_cases hp : s.phase128 = .absorb
      · obtain ⟨d, rfl⟩ := delivered_of_holds128 hd (by simp [hp])
        simpa only [if_pos (And.intro hp hok), Option.map_some] using exec_tail128_holds128 hp hok hd h
      · rw [exec_tail128_out_of_phase hp hok] at h; cases h
        simpa only [if_neg (mt And.left hp)] using holds128_raised.2 hd
    · rw [exec_tail128_bad_count s hok] at h; cases h
      simpa only [if_neg (mt And.right hok)] using holds128_raised.2 hd
  | final128 =>
    cases hp : finalLegal s.phase128 with
    | true =>
      have hp := finalLegal_iff.1 hp
      obtain ⟨d, rfl⟩ := delivered_of_holds128 hd (by rcases hp with hp | hp <;> simp [hp])
      exact exec_final128_holds128 hp hd h
    | false =>
      rw [exec_final128_out_of_phase (finalLegal_eq_false_iff.1 hp)] at h; cases h
      exact holds128_raised.2 hd
  | _ => exact (holds128_congr (isResultView_resultsU128.exec rfl h)).2 hd

end Sys2Proof.Proofs
end

section
/-! Every event and every run keep both units at the hash of what was delivered to them (41_murmur3_32.md R131,
42_murmur3_128.md R161). -/

namespace Sys2Proof.Proofs

open Sys2Proof Sys2Proof.Machine Sys2Proof.Safety Sys2Proof.Laws

/-! ### Every event -/

/-- An event that is neither a reset nor a command leaves the results of every unit as they are. -/
theorem IsResultView.perform_of_quiet {α : Type} {own : Instr → Bool} {view : State → α} (hv : IsResultView own view)
    {e : HostEvent} {s t : State} (hq : Quiet e) (h : perform e s = .next t) : view t = view s := by
  obtain ⟨hne, hc⟩ := hq
  rcases hv.perform_cases h with heq | he | ⟨i, hi, -⟩
  · exact heq
  · exact absurd he hne
  · rw [hc] at hi; cases hi

theorem perform_holds32 {d : Option Delivered} {e : HostEvent} {s t : State} (hd : holds32 d s)
    (h : perform e s = .next t) : holds32 (track32 s e d) t := by
  by_cases he : e = .reset
  · subst he; cases h
    rfl
  · cases hc : commandOf e with
    | some i =>
      obtain ⟨u, hu, rfl⟩ := perform_of_commandOf hc h
      exact (holds32_congr (isResultView_resultsU32.respond _ _ _)).2 (exec_holds32 hc hd hu)
    | none =>
      simp only [track32, if_neg he, hc]
      exact (holds32_congr (isResultView_resultsU32.perform_of_quiet ⟨he, hc⟩ h)).2 hd

theorem perform_holds128 {d : Option Delivered} {e : HostEvent} {s t : State} (hd : holds128 d s)
    (h : perform e s = .next t) : holds128 (track128 s e d) t := by
  by_cases he : e = .reset
  · subst he; cases h
    rfl
  · cases hc : commandOf e with
    | some i =>
      obtain ⟨u, hu, rfl⟩ := perform_of_commandOf hc h
      exact (holds128_congr (isResultView_resultsU128.respond _ _ _)).2 (exec_holds128 hc hd hu)
    | none =>
      simp only [track128, if_neg he, hc]
      exact (holds128_congr (isResultView_resultsU128.perform_of_quiet ⟨he, hc⟩ h)).2 hd

/-- The step that performs an event keeps what U32 holds. -/
theorem step_holds32 {d : Option Delivered} {e : HostEvent} {rest : List HostEvent} {s t : State}
    (hp : s.pending = e :: rest) (hd : holds32 d s) (h : step s = .next t) : holds32 (track32 s e d) t :=
  perform_holds32 (s := { s with pending := rest }) hd (step_of_pending hp ▸ h)

/-- The step that performs an event keeps what U128 holds. -/
theorem step_holds128 {d : Option Delivered} {e : HostEvent} {rest : List HostEvent} {s t : State}
    (hp : s.pending = e :: rest) (hd : holds128 d s) (h : step s = .next t) : holds128 (track128 s e d) t :=
  perform_holds128 (s := { s with pending := rest }) hd (step_of_pending hp ▸ h)

/-- Settles O56: an event delivers to U32 just what it leaves there, command by command (`exec_holds32`). -/
theorem u32HoldsTheHashOfWhatWasDelivered : Obligations.U32HoldsTheHashOfWhatWasDelivered :=
  fun _ _ _ _ _ => step_holds32

/-! ### Every run -/

/-- A run of any machine that ends in a next state took its first step to one. -/
theorem core_run_succ_inv {M : Host.Core} {k : Nat} {s t : M.State} (h : M.run (k + 1) s = .next t) :
    ∃ u, M.step s = .next u ∧ M.run k u = .next t := by
  rw [Host.Core.run] at h
  cases hs : M.step s with
  | next u => rw [hs] at h; exact ⟨u, rfl, h⟩
  | fault r => rw [hs] at h; cases h
  | refused r => rw [hs] at h; cases h

/-- Every run keeps what both units hold. -/
theorem run_holds {k : Nat} {d32 d128 : Option Delivered} {s t : State} (h32 : holds32 d32 s)
    (h128 : holds128 d128 s) (h : Host.Core.run Sys2Proof.core k s = .next t) :
    holds32 (delivered32 k s d32) t ∧ holds128 (delivered128 k s d128) t := by
  induction k generalizing s d32 d128 with
  | zero => cases h; exact ⟨h32, h128⟩
  | succ k ih =>
    obtain ⟨u, hs, hr⟩ : ∃ u, step s = .next u ∧ Host.Core.run Sys2Proof.core k u = .next t := core_run_succ_inv h
    obtain ⟨e, rest, hp, -⟩ := step_cases hs
    simp only [delivered32, delivered128, hp, hs]
    exact ih (step_holds32 hp h32 hs) (step_holds128 hp h128 hs) hr

theorem hash32_of_holds32 {d : Option Delivered} {t : State} (hd : holds32 d t) (hp : t.phase32 = .done) :
    ∃ d', d = some d' ∧ t.h32 = hash32 d'.key d'.seed := by
  obtain ⟨d', rfl⟩ := delivered_of_holds32 hd (by simp [hp])
  obtain ⟨-, hh⟩ := (holds32_some_of_done hp).1 hd
  exact ⟨d', rfl, hh⟩

theorem hash128_of_holds128 {d : Option Delivered} {t : State} (hd : holds128 d t) (hp : t.phase128 = .done) :
    ∃ d', d = some d' ∧ (t.h1, t.h2) = hash128 d'.key d'.seed := by
  obtain ⟨d', rfl⟩ := delivered_of_holds128 hd (by simp [hp])
  obtain ⟨-, hh⟩ := (holds128_some_of_done hp).1 hd
  exact ⟨d', rfl, hh⟩

/-- Settles O59: both units in IDLE hold that nothing has been delivered, and every run keeps what they hold. -/
theorem everyDigestIsTheHashOfTheDeliveredKey : Obligations.EveryDigestIsTheHashOfTheDeliveredKey := by
  intro k s t hi32 hi128 h
  obtain ⟨h32, h128⟩ := run_holds (d32 := none) (d128 := none) hi32 hi128 h
  exact ⟨hash32_of_holds32 h32, hash128_of_holds128 h128⟩

end Sys2Proof.Proofs
end

section
/-! The canonical sequence of the 32-bit hash (41_murmur3_32.md R130): event by event from any state, and with other
accesses between (20_memory.md R62). -/

namespace Sys2Proof.Proofs

open Sys2Proof Sys2Proof.Machine Sys2Proof.Safety Sys2Proof.Laws

/-! ### Runs put together -/

/-- The events lead from `s` to `t`, whatever is pending before or after them. -/
def Leads (evs : List HostEvent) (s t : State) : Prop :=
  ∀ rest, runEvents evs rest s = .next { t with pending := rest }

theorem Leads.nil (s : State) : Leads [] s s := fun rest => runEvents_nil rest s

theorem Leads.append {xs ys : List HostEvent} {s t u : State} (hx : Leads xs s t) (hy : Leads ys t u) :
    Leads (xs ++ ys) s u := fun rest => by
  rw [runEvents_append (hx [])]
  exact hy rest

theorem Leads.single {e : HostEvent} {s t : State} (h : perform e s = .next t) : Leads [e] s t := fun rest => by
  rw [runEvents_cons h, runEvents_nil]

theorem Leads.pair {e f : HostEvent} {s t u : State} (he : perform e s = .next t) (hf : perform f t = .next u) :
    Leads [e, f] s u :=
  (Leads.single he).append (.single hf)

/-! ### U32 after a write that touched it -/

/-- The block with these values in U32 and the answer `(0, 0)`, all else as in `s`. -/
def withU32 (seed din h len : Word) (p : Phase) (s : State) : State :=
  { s with seed32 := seed, din32 := din, h32 := h, len32 := len, phase32 := p, answer := some ⟨0, false⟩ }

section Events
variable {seed din h len : Word} {p : Phase} {s : State}

theorem perform_cmd {i : Instr} {t : State} (he : exec i s = .next t) :
    perform (cmd i) s = .next (respond 0 false t) :=
  perform_command (decode_encode i) he

theorem perform_wr {r : Reg} {v : Word} {t : State} (hw : writeReg r v s = some t) :
    perform (wr r v) s = .next (respond 0 false t) :=
  perform_store hw

theorem perform_wr_seed32 (v : Word) :
    perform (wr .seed32 v) s = .next (withU32 v s.din32 s.h32 s.len32 s.phase32 s) :=
  perform_wr (t := { s with seed32 := v }) rfl

theorem perform_wr_din32 (v : Word) :
    perform (wr .din32 v) (withU32 seed din h len p s) = .next (withU32 seed v h len p s) :=
  perform_wr (t := { withU32 seed din h len p s with din32 := v }) rfl

theorem perform_cmd_init32 :
    perform (cmd .init32) (withU32 seed din h len p s) = .next (withU32 seed din seed 0 .absorb s) :=
  perform_cmd (exec_init32_eq _)

theorem perform_cmd_block32 : perform (cmd .block32) (withU32 seed din h len .absorb s)
    = .next (withU32 seed din (block32 h din) (len + 4) .absorb s) :=
  perform_cmd (exec_block32_of_absorb rfl)

theorem perform_cmd_tail32 {cnt : BitVec 4} (hc : 1 ≤ cnt.toNat ∧ cnt.toNat ≤ 3) :
    perform (cmd (.tail32 cnt)) (withU32 seed din h len .absorb s)
      = .next (withU32 seed din (h ^^^ mixK32 (tailK32 cnt.toNat (byteOf din))) (len + BitVec.ofNat 32 cnt.toNat)
          .tailed s) :=
  perform_cmd (exec_tail32_of_absorb rfl hc)

theorem perform_cmd_final32 (hp : p = .absorb ∨ p = .tailed) :
    perform (cmd .final32) (withU32 seed din h len p s) = .next (withU32 seed din (final32 h len) len .done s) :=
  perform_cmd (exec_final32_of_phase hp)

end Events

/-! ### The parts of the canonical sequence -/

/-- The loads and BLOCK32 commands of the first `m` blocks absorb them (R128, R130). -/
theorem leads_blocks32 (key : List Byte) (seed : Word) (s : State) (din : Word) (m : Nat) : ∃ din',
    Leads ((List.range m).flatMap fun i => ld32 key (4 * i) ++ [cmd .block32]) (withU32 seed din seed 0 .absorb s)
      (withU32 seed din' (absorb32 key seed m) (BitVec.ofNat 32 (4 * m)) .absorb s) := by
  induction m with
  | zero => exact ⟨din, .nil _⟩
  | succ m ih =>
    obtain ⟨din', hblocks⟩ := ih
    rw [List.range_succ, List.flatMap_append, List.flatMap_singleton, absorb32_succ, Nat.mul_succ, BitVec.ofNat_add]
    exact ⟨_, hblocks.append (.pair (perform_wr_din32 _) perform_cmd_block32)⟩

/-- The tail accesses take the accumulator of the blocks through the tail step, and the length to that of the key. -/
theorem leads_tail32 (key : List Byte) (seed din h : Word) (s : State) : ∃ din' p, (p = .absorb ∨ p = .tailed) ∧
    Leads (tailAccesses32 key) (withU32 seed din h (BitVec.ofNat 32 (4 * (key.length / 4))) .absorb s)
      (withU32 seed din' (foldKeyTail32 key h) (BitVec.ofNat 32 key.length) p s) := by
  have hlen : key.length = 4 * (key.length / 4) + key.length % 4 := (Nat.div_add_mod _ _).symm
  by_cases ht : key.length % 4 > 0
  · have hcnt : (BitVec.ofNat 4 (key.length % 4)).toNat = key.length % 4 := by
      rw [BitVec.toNat_ofNat]; omega
    have hbytes : ∀ j < key.length % 4,
        byteOf (keyWord key (4 * (key.length / 4))) j = keyByte key (4 * (key.length / 4) + j) :=
      fun j hj => byteOf_keyWord key _ j (by omega)
    have htail := perform_cmd_tail32 (cnt := BitVec.ofNat 4 (key.length % 4)) (seed := seed) (s := s) (h := h)
      (din := keyWord key (4 * (key.length / 4))) (len := BitVec.ofNat 32 (4 * (key.length / 4))) (by omega)
    rw [hcnt, tailK32_congr hbytes, ← BitVec.ofNat_add, ← hlen] at htail
    simp only [tailAccesses32, foldKeyTail32, if_pos ht]
    exact ⟨_, .tailed, .inr rfl, .pair (perform_wr_din32 _) htail⟩
  · rw [foldKeyTail32_of_blocks (by omega), ← show key.length = 4 * (key.length / 4) by omega]
    simp only [tailAccesses32, if_neg ht]
    exact ⟨din, .absorb, .inl rfl, .nil _⟩

/-- The canonical sequence up to its FINAL32 leaves the hash in U32 and changes nothing else (R130). -/
theorem leads_hashAccesses32 (key : List Byte) (seed : Word) (s : State) : ∃ din,
    Leads (hashAccesses32 key seed) s
      (withU32 seed din (hash32 key seed) (BitVec.ofNat 32 key.length) .done s) := by
  obtain ⟨din₁, hblocks⟩ := leads_blocks32 key seed s s.din32 (key.length / 4)
  obtain ⟨din₂, p, hp, htail⟩ := leads_tail32 key seed din₁ (absorb32 key seed (key.length / 4)) s
  have hinit : Leads [wr .seed32 seed, cmd .init32] s (withU32 seed s.din32 seed 0 .absorb s) :=
    .pair (perform_wr_seed32 seed) perform_cmd_init32
  exact ⟨din₂, ((hinit.append hblocks).append htail).append (.single (perform_cmd_final32 hp))⟩

/-- Settles O52: the canonical sequence is `hashAccesses32` and a read of H32. -/
theorem canonicalSequence32ComputesHash32 : Obligations.CanonicalSequence32ComputesHash32 := by
  intro key seed s rest
  obtain ⟨din, hhash⟩ := leads_hashAccesses32 key seed s
  exact ⟨din, hhash.append (.single (perform_read .h32 _)) rest⟩

/-! ### Other accesses between -/

/-- A run seen through the view of a unit is the run of the events that touch the unit: the others leave the view as
it is, and what a touching event leaves there depends on the view alone (R212). -/
theorem IsUnitView.run_filter {α : Type} {view : State → α} {touches : HostEvent → Bool} (hv : IsUnitView view)
    (hpending : ∀ s q, view { s with pending := q } = view s)
    (hquiet : ∀ {e s t}, touches e = false → perform e s = .next t → view t = view s)
    {evs rest : List HostEvent} {s s' t t' : State} (hs : view s = view s') (h : runEvents evs rest s = .next t)
    (h' : runEvents (evs.filter touches) rest s' = .next t') : view t = view t' := by
  induction evs generalizing s s' with
  | nil =>
    rw [List.filter_nil] at h'
    rw [runEvents_nil] at h h'; cases h; cases h'
    rw [hpending s, hpending s', hs]
  | cons e evs ih =>
    obtain ⟨u, hu⟩ := perform_answers_next e s
    rw [runEvents_cons hu] at h
    cases he : touches e with
    | false =>
      rw [List.filter_cons_of_neg (by simp [he])] at h'
      exact ih ((hquiet he hu).trans hs) h h'
    | true =>
      obtain ⟨u', hu'⟩ := perform_answers_next e s'
      rw [List.filter_cons_of_pos he, runEvents_cons hu'] at h'
      exact ih (hv.perform_congr hu hu' hs) h h'

/-- An event that does not touch U32 leaves it as it is (R41, R59). -/
theorem viewU32_of_not_touchesU32 {e : HostEvent} {s t : State} (he : touchesU32 e = false)
    (h : perform e s = .next t) : viewU32 t = viewU32 s := by
  cases perform_cases h with
  | reset => simp [touchesU32] at he
  | read r ht => rw [ht, viewU32_respond]
  | store r v u hw ht =>
    have hr : r ≠ .seed32 ∧ r ≠ .din32 := by simp_all [touchesU32, storeOf]
    rw [ht, viewU32_respond]
    cases r <;> cases hw <;> simp_all [viewU32]
  | command w i u hd hx ht =>
    simp only [touchesU32, commandOf_write_cmd hd, Option.any_some, Bool.or_eq_false_iff] at he
    rw [ht, viewU32_respond, exec_viewU32 he.2 hx]
  | rejected w r hd ht => rw [ht, viewU32_respond, viewU32_recordError]
  | busErrorRead off size hb ht => rw [ht, viewU32_respond, viewU32_recordError]
  | busErrorWrite off size v hb ht => rw [ht, viewU32_respond, viewU32_recordError]

/-- Settles O53: U32 sees of a run only the events that touch it, and those are the canonical sequence. -/
theorem interleavedSequence32ComputesHash32 : Obligations.InterleavedSequence32ComputesHash32 := by
  intro key seed evs s rest hevs
  obtain ⟨din, hhash⟩ := leads_hashAccesses32 key seed s
  obtain ⟨t, ht, hrest⟩ := runEvents_answers_next evs rest s
  have hview := isUnitView_viewU32.run_filter (fun _ _ => rfl) viewU32_of_not_touchesU32 rfl ht (hevs ▸ hhash rest)
  obtain ⟨-, -, hh, hn, hp⟩ := viewU32_eq_iff.1 hview
  exact ⟨t, ht, hp, hn, hh, hrest⟩

end Sys2Proof.Proofs
end

section
/-! The statements about the commands of U128 (42_murmur3_128.md R155 to R158): the functions of R150 to R153 written
out, the key bytes of DIN128_0..3 as numbers; and what every step keeps (R161). -/

namespace Sys2Proof.Proofs

open Sys2Proof Sys2Proof.Machine Sys2Proof.Safety Sys2Proof.Laws

/-! ### The functions of the 128-bit algorithm in Lean's own operations -/

/-- The lane-1 mix (R151) with its constants (R150). -/
theorem mixK1_64_eq (k : DWord) :
    mixK1_64 k = (k * 0x87c37b91114253d5).rotateLeft 31 * 0x4cf5ad432745937f := by
  simp only [mixK1_64, rotl64_eq_rotateLeft _ (show 31 < 64 by decide), c1_64, c2_64]

/-- The lane-2 mix (R151) with its constants (R150). -/
theorem mixK2_64_eq (k : DWord) :
    mixK2_64 k = (k * 0x4cf5ad432745937f).rotateLeft 33 * 0x87c37b91114253d5 := by
  simp only [mixK2_64, rotl64_eq_rotateLeft _ (show 33 < 64 by decide), c1_64, c2_64]

/-- The lane-1 half of the block step (R152). -/
theorem blockLane1_eq (h1 h2 k : DWord) :
    blockLane1 h1 h2 k = ((h1 ^^^ mixK1_64 k).rotateLeft 27 + h2) * 5 + 0x52dce729 := by
  simp only [blockLane1, rotl64_eq_rotateLeft _ (show 27 < 64 by decide)]

/-- The lane-2 half of the block step (R152). -/
theorem blockLane2_eq (newH1 h2 k : DWord) :
    blockLane2 newH1 h2 k = ((h2 ^^^ mixK2_64 k).rotateLeft 31 + newH1) * 5 + 0x38495ab5 := by
  simp only [blockLane2, rotl64_eq_rotateLeft _ (show 31 < 64 by decide)]

/-- A function that does the five lines of R103 is fmix64. -/
theorem eq_fmix64_of_lines {mix : DWord → DWord}
    (hmix : ∀ h : DWord, ∃ a b c d : DWord, a = h ^^^ (h >>> 33) ∧ b = a * 0xff51afd7ed558ccd ∧
      c = b ^^^ (b >>> 33) ∧ d = c * 0xc4ceb9fe1a85ec53 ∧ mix h = d ^^^ (d >>> 33)) : mix = fmix64 := by
  funext h
  obtain ⟨a, b, c, d, rfl, rfl, rfl, rfl, hm⟩ := hmix h
  exact hm

/-! ### SEED128 and DIN128_0..3 as numbers (R85, R87) -/

theorem seedWide_eq_ofNat (s : State) : seedWide s = BitVec.ofNat 64 s.seed128.toNat :=
  (BitVec.ofNat_toNat 64 s.seed128).symm

theorem blockWord1_toNat (s : State) : (blockWord1 s).toNat = s.din128_0.toNat + 2 ^ 32 * s.din128_1.toNat :=
  joinWords_toNat s.din128_1 s.din128_0

theorem blockWord2_toNat (s : State) : (blockWord2 s).toNat = s.din128_2.toNat + 2 ^ 32 * s.din128_3.toNat :=
  joinWords_toNat s.din128_3 s.din128_2

/-- The lower eight input bytes are those of the first block word (R87). -/
theorem inputByte128_low (s : State) {j : Nat} (hj : j < 8) :
    inputByte128 s j = (blockWord1 s).extractLsb' (8 * j) 8 := by
  rw [blockWord1, extract_joinWords _ _ j hj, inputByte128]
  split
  · rw [show j / 4 = 0 by omega]; rfl
  · rw [show j / 4 = 1 by omega]; rfl

/-- The upper eight input bytes are those of the second block word (R87). -/
theorem inputByte128_high (s : State) {j : Nat} (hj : j < 8) :
    inputByte128 s (j + 8) = (blockWord2 s).extractLsb' (8 * j) 8 := by
  rw [blockWord2, extract_joinWords _ _ j hj, inputByte128, show (j + 8) % 4 = j % 4 by omega]
  split
  · rw [show (j + 8) / 4 = 2 by omega]; rfl
  · rw [show (j + 8) / 4 = 3 by omega]; rfl

/-- The lane-1 tail word is the low bytes of the first block word (R153). -/
theorem tailK1_64_inputByte128 (s : State) (t : Nat) :
    tailK1_64 t (inputByte128 s) = BitVec.ofNat 64 ((blockWord1 s).toNat % 2 ^ (8 * min t 8)) := by
  rw [tailK1_64, foldTail64_congr (fun j hj => inputByte128_low s (by omega)), foldTail64_bytes]
  exact BitVec.zero_xor

/-- The lane-2 tail word is the low bytes of the second block word (R153). -/
theorem tailK2_64_inputByte128 (s : State) {t : Nat} (ht : t < 16) :
    tailK2_64 t (inputByte128 s) = BitVec.ofNat 64 ((blockWord2 s).toNat % 2 ^ (8 * (t - 8))) := by
  rw [tailK2_64, foldTail64_congr (fun j hj => inputByte128_high s (by omega)), foldTail64_bytes]
  exact BitVec.zero_xor

/-! ### The obligations -/

/-- Settles O15: INIT128 makes no check; the words of its opcode by `stepOf_plain_bad_field`. -/
theorem init128LoadsTheWidenedSeed : Obligations.Init128LoadsTheWidenedSeed := by
  intro s
  refine ⟨?_, decode_encode .init128, fun _ hop hne => stepOf_plain_bad_field s hop (by decide) hne⟩
  rw [exec_init128_eq, seedWide_eq_ofNat]
  rfl

/-- Settles O16: `exec_block128_of_absorb` with the two halves of the block step written out; out of phase SEQUENCE. -/
theorem block128AbsorbsTheBlock : Obligations.Block128AbsorbsTheBlock := by
  intro s
  refine ⟨fun hp => ⟨_, _, _, _, rfl, rfl, rfl, rfl, ?_⟩, exec_block128_out_of_phase, decode_encode .block128,
    fun _ hop hne => stepOf_plain_bad_field s hop (by decide) hne⟩
  simp only [← blockWord1_toNat, ← blockWord2_toNat, BitVec.ofNat_toNat, BitVec.setWidth_eq, ← mixK1_64_eq,
    ← mixK2_64_eq, ← blockLane1_eq, ← blockLane2_eq]
  rw [exec_block128_of_absorb hp, ← hp]
  rfl

/-- Settles O17: `exec_tail128_of_absorb` with the tail words as numbers and the mixes written out; BAD_FIELD comes
before SEQUENCE because the count is checked first. -/
theorem tail128FoldsTheLowBytes : Obligations.Tail128FoldsTheLowBytes := by
  intro s cnt
  refine ⟨fun hc hp => ⟨_, _, _, _, rfl, rfl, rfl, rfl, ?_⟩, fun hc hp => exec_tail128_out_of_phase hp hc,
    fun hc => exec_tail128_bad_count s (by omega), decode_ofNat_encode (encode_tail128_toNat cnt),
    fun _ hop => stepOf_tail_bad_field s (.inr hop)⟩
  rw [← blockWord1_toNat, ← blockWord2_toNat, ← tailK1_64_inputByte128, ← tailK2_64_inputByte128 s cnt.isLt,
    ← mixK1_64_eq, ← mixK2_64_eq, exec_tail128_of_absorb hp hc]
  rfl

/-- Settles O18: the function `mix` is fmix64, and the assignments are those of `final128`. -/
theorem final128GivesTheAvalanche : Obligations.Final128GivesTheAvalanche := by
  intro s
  refine ⟨fun mix hmix hp => ?_, exec_final128_out_of_phase, decode_encode .final128,
    fun _ hop hne => stepOf_plain_bad_field s hop (by decide) hne⟩
  rw [eq_fmix64_of_lines hmix]
  exact ⟨_, _, _, _, _, _, rfl, rfl, rfl, rfl, rfl, rfl, exec_final128_of_phase hp⟩

/-! ### Every step -/

/-- Settles O57: an event delivers to U128 just what it leaves there, command by command (`exec_holds128`). -/
theorem u128HoldsTheHashOfWhatWasDelivered : Obligations.U128HoldsTheHashOfWhatWasDelivered :=
  fun _ _ _ _ _ => step_holds128

end Sys2Proof.Proofs
end

section
/-! The canonical sequence of the 128-bit hash (42_murmur3_128.md R160): event by event from any state, and with other
accesses between (20_memory.md R62). -/

namespace Sys2Proof.Proofs

open Sys2Proof Sys2Proof.Machine Sys2Proof.Safety Sys2Proof.Laws

/-! ### U128 after a write that touched it -/

/-- The words of DIN128_0..3 (R32). -/
structure Input128 where
  w0 : Word
  w1 : Word
  w2 : Word
  w3 : Word

/-- What `ld128` of the key bytes from offset `i` on leaves in DIN128_0..3 (R92). -/
def keyInput128 (key : List Byte) (i : Nat) : Input128 :=
  ⟨keyWord key i, keyWord key (i + 4), keyWord key (i + 8), keyWord key (i + 12)⟩

/-- The block with these values in U128 and the answer `(0, 0)`, all else as in `s`. -/
def withU128 (seed : Word) (din : Input128) (h : DWord × DWord) (len : DWord) (p : Phase) (s : State) : State :=
  { s with
    seed128 := seed, din128_0 := din.w0, din128_1 := din.w1, din128_2 := din.w2, din128_3 := din.w3
    h1 := h.1, h2 := h.2, len128 := len, phase128 := p, answer := some ⟨0, false⟩ }

section Events
variable {seed : Word} {din : Input128} {h : DWord × DWord} {len : DWord} {p : Phase} {s : State}

theorem perform_wr_seed128 (v : Word) : perform (wr .seed128 v) s
    = .next (withU128 v ⟨s.din128_0, s.din128_1, s.din128_2, s.din128_3⟩ (s.h1, s.h2) s.len128 s.phase128 s) :=
  perform_wr (t := { s with seed128 := v }) rfl

/-- The four writes of `ld128` replace the whole input (R92). -/
theorem leads_ld128 (key : List Byte) (i : Nat) :
    Leads (ld128 key i) (withU128 seed din h len p s) (withU128 seed (keyInput128 key i) h len p s) :=
  (Leads.pair (perform_wr rfl) (perform_wr rfl)).append
    (.pair (perform_wr rfl) (perform_wr (t := withU128 seed (keyInput128 key i) h len p s) rfl))

theorem perform_cmd_init128 : perform (cmd .init128) (withU128 seed din h len p s)
    = .next (withU128 seed din (seed.setWidth 64, seed.setWidth 64) 0 .absorb s) :=
  perform_cmd (exec_init128_eq _)

theorem perform_cmd_block128 : perform (cmd .block128) (withU128 seed din h len .absorb s)
    = .next (withU128 seed din (block128 h.1 h.2 (joinWords din.w1 din.w0) (joinWords din.w3 din.w2)) (len + 16)
        .absorb s) :=
  perform_cmd (exec_block128_of_absorb rfl)

theorem perform_cmd_tail128 {cnt : BitVec 4} (hc : 1 ≤ cnt.toNat) :
    perform (cmd (.tail128 cnt)) (withU128 seed din h len .absorb s)
      = .next (withU128 seed din
          (tail128 cnt.toNat (inputByte128 (withU128 seed din h len .absorb s)) h.1 h.2)
          (len + BitVec.ofNat 64 cnt.toNat) .tailed s) :=
  perform_cmd (exec_tail128_of_absorb rfl hc)

theorem perform_cmd_final128 (hp : p = .absorb ∨ p = .tailed) :
    perform (cmd .final128) (withU128 seed din h len p s)
      = .next (withU128 seed din (final128 h.1 h.2 len) len .done s) :=
  perform_cmd (exec_final128_of_phase hp)

/-- Byte `j` of a loaded input is byte `j` of what was loaded (R87, R92). -/
theorem inputByte128_keyInput128 (key : List Byte) (i : Nat) {j : Nat} (hj : j < 16) :
    inputByte128 (withU128 seed (keyInput128 key i) h len p s) j = keyByte key (i + j) := by
  have hword : din128 (withU128 seed (keyInput128 key i) h len p s) (j / 4) = keyWord key (i + 4 * (j / 4)) := by
    obtain hk | hk | hk | hk : j / 4 = 0 ∨ j / 4 = 1 ∨ j / 4 = 2 ∨ j / 4 = 3 := by omega
    all_goals rw [hk]; rfl
  rw [inputByte128, hword, byteOf_keyWord key _ _ (Nat.mod_lt _ (by decide)), Nat.add_assoc, Nat.div_add_mod]

end Events

/-! ### The parts of the canonical sequence -/

/-- The loads and BLOCK128 commands of the first `m` blocks absorb them (R159, R160). -/
theorem leads_blocks128 (key : List Byte) (seed : Word) (din : Input128) (s : State) (m : Nat) : ∃ din',
    Leads ((List.range m).flatMap fun i => ld128 key (16 * i) ++ [cmd .block128])
      (withU128 seed din (seed.setWidth 64, seed.setWidth 64) 0 .absorb s)
      (withU128 seed din' (absorb128 key seed m) (BitVec.ofNat 64 (16 * m)) .absorb s) := by
  induction m with
  | zero => exact ⟨din, .nil _⟩
  | succ m ih =>
    obtain ⟨din', hblocks⟩ := ih
    rw [List.range_succ, List.flatMap_append, List.flatMap_singleton, absorb128_succ, Nat.mul_succ, BitVec.ofNat_add]
    exact ⟨_, hblocks.append ((leads_ld128 key (16 * m)).append (.single perform_cmd_block128))⟩

/-- The tail accesses take the lanes of the blocks through the tail step, and the length to that of the key. -/
theorem leads_tail128 (key : List Byte) (seed : Word) (din : Input128) (h : DWord × DWord) (s : State) :
    ∃ din' p, (p = .absorb ∨ p = .tailed) ∧
      Leads (tailAccesses128 key) (withU128 seed din h (BitVec.ofNat 64 (16 * (key.length / 16))) .absorb s)
        (withU128 seed din' (foldKeyTail128 key h) (BitVec.ofNat 64 key.length) p s) := by
  have hlen : key.length = 16 * (key.length / 16) + key.length % 16 := (Nat.div_add_mod _ _).symm
  by_cases ht : key.length % 16 > 0
  · have hcnt : (BitVec.ofNat 4 (key.length % 16)).toNat = key.length % 16 := by
      rw [BitVec.toNat_ofNat]; omega
    have htail := perform_cmd_tail128 (cnt := BitVec.ofNat 4 (key.length % 16)) (seed := seed) (s := s) (h := h)
      (din := keyInput128 key (16 * (key.length / 16))) (len := BitVec.ofNat 64 (16 * (key.length / 16))) (by omega)
    rw [hcnt, tail128_congr fun j hj => inputByte128_keyInput128 key _ (by omega), ← BitVec.ofNat_add,
      ← hlen] at htail
    simp only [tailAccesses128, foldKeyTail128, if_pos ht]
    exact ⟨_, .tailed, .inr rfl, (leads_ld128 key _).append (.single htail)⟩
  · rw [foldKeyTail128_of_blocks (by omega), ← show key.length = 16 * (key.length / 16) by omega]
    simp only [tailAccesses128, if_neg ht]
    exact ⟨din, .absorb, .inl rfl, .nil _⟩

/-- The canonical sequence up to its FINAL128 leaves the hash in U128 and changes nothing else (R160). -/
theorem leads_hashAccesses128 (key : List Byte) (seed : Word) (s : State) : ∃ din,
    Leads (hashAccesses128 key seed) s
      (withU128 seed din (hash128 key seed) (BitVec.ofNat 64 key.length) .done s) := by
  obtain ⟨din₁, hblocks⟩ := leads_blocks128 key seed ⟨s.din128_0, s.din128_1, s.din128_2, s.din128_3⟩ s
    (key.length / 16)
  obtain ⟨din₂, p, hp, htail⟩ := leads_tail128 key seed din₁ (absorb128 key seed (key.length / 16)) s
  have hinit := Leads.pair (perform_wr_seed128 (s := s) seed) perform_cmd_init128
  exact ⟨din₂, ((hinit.append hblocks).append htail).append (.single (perform_cmd_final128 hp))⟩

/-! ### The reads at the end -/

/-- No register's value depends on what the bus last answered (R52). -/
theorem readReg_respond (r : Reg) (v : Word) (b : Bool) (s : State) : readReg r (respond v b s) = readReg r s := by
  cases r <;> rfl

/-- Reads one after another change nothing and leave the answer of the last on the bus (R52, R59). -/
theorem leads_reads (rs : List Reg) (r : Reg) (s : State) :
    Leads ((rs ++ [r]).map rd) s (respond (readReg r s) false s) := by
  induction rs generalizing s with
  | nil => exact .single (perform_read r s)
  | cons q rs ih =>
    have hrest := ih (respond (readReg q s) false s)
    rw [readReg_respond] at hrest
    exact (Leads.single (perform_read q s)).append hrest

/-- Settles O54: the canonical sequence is `hashAccesses128` and the reads of the four halves of the lanes. -/
theorem canonicalSequence128ComputesHash128 : Obligations.CanonicalSequence128ComputesHash128 := by
  intro key seed s rest j h reads words
  obtain ⟨din, hhash⟩ := leads_hashAccesses128 key seed s
  refine ⟨rfl, din.w0, din.w1, din.w2, din.w3, ?_⟩
  have hread (rs : List Reg) (r : Reg) {v : Word}
      (hv : readReg r (withU128 seed din h (BitVec.ofNat 64 key.length) .done s) = v) :
      Leads (hashAccesses128 key seed ++ (rs ++ [r]).map rd) s
        (respond v false (withU128 seed din h (BitVec.ofNat 64 key.length) .done s)) :=
    hv ▸ hhash.append (leads_reads rs r _)
  match j with
  | 0 => exact hread [] .h1_lo (lowWord_eq_setWidth h.1) rest
  | 1 => exact hread [.h1_lo] .h1_hi (highWord_eq_setWidth h.1) rest
  | 2 => exact hread [.h1_lo, .h1_hi] .h2_lo (lowWord_eq_setWidth h.2) rest
  | 3 => exact hread [.h1_lo, .h1_hi, .h2_lo] .h2_hi (highWord_eq_setWidth h.2) rest

/-! ### Other accesses between -/

/-- An event that does not touch U128 leaves it as it is (R41, R59). -/
theorem viewU128_of_not_touchesU128 {e : HostEvent} {s t : State} (he : touchesU128 e = false)
    (h : perform e s = .next t) : viewU128 t = viewU128 s := by
  cases perform_cases h with
  | reset => simp [touchesU128] at he
  | read r ht => rw [ht, viewU128_respond]
  | store r v u hw ht =>
    have hr : r ≠ .seed128 ∧ r ≠ .din128_0 ∧ r ≠ .din128_1 ∧ r ≠ .din128_2 ∧ r ≠ .din128_3 := by
      simp_all [touchesU128, storeOf]
    rw [ht, viewU128_respond]
    cases r <;> cases hw <;> simp_all [viewU128]
  | command w i u hd hx ht =>
    simp only [touchesU128, commandOf_write_cmd hd, Option.any_some, Bool.or_eq_false_iff] at he
    rw [ht, viewU128_respond, exec_viewU128 he.2 hx]
  | rejected w r hd ht => rw [ht, viewU128_respond, viewU128_recordError]
  | busErrorRead off size hb ht => rw [ht, viewU128_respond, viewU128_recordError]
  | busErrorWrite off size v hb ht => rw [ht, viewU128_respond, viewU128_recordError]

/-- Settles O55: U128 sees of a run only the events that touch it, and those are the canonical sequence. -/
theorem interleavedSequence128ComputesHash128 : Obligations.InterleavedSequence128ComputesHash128 := by
  intro key seed evs s rest hevs
  obtain ⟨din, hhash⟩ := leads_hashAccesses128 key seed s
  obtain ⟨t, ht, hrest⟩ := runEvents_answers_next evs rest s
  have hview := isUnitView_viewU128.run_filter (fun _ _ => rfl) viewU128_of_not_touchesU128 rfl ht
    (hevs ▸ hhash rest)
  obtain ⟨-, -, -, -, -, h1, h2, hn, hp⟩ := viewU128_eq_iff.1 hview
  exact ⟨t, ht, hp, hn, Prod.ext h1 h2, hrest⟩

end Sys2Proof.Proofs
end

section
/-! NOP and CLRERR (43_digest_and_control.md R185, R186): what they do, and the words of their opcodes that are no
command. -/

namespace Sys2Proof.Proofs

open Sys2Proof Sys2Proof.Machine Sys2Proof.Safety Sys2Proof.Laws

theorem exec_nop_eq (s : State) : exec .nop s = .next s := by
  rw [exec_nop, checked_true]

theorem exec_clrerr_eq (s : State) : exec .clrerr s = .next { s with err := false, errCode := 0 } := by
  rw [exec_clrerr, checked_true, clearError]

/-- Settles O9: NOP makes no check and no change; the words of its opcode by `stepOf_plain_bad_field`. -/
theorem nopLeavesEveryRegister : Obligations.NopLeavesEveryRegister := fun s =>
  ⟨exec_nop_eq s, decode_encode .nop, fun _ hop hne => stepOf_plain_bad_field s hop (by decide) hne⟩

/-- Settles O10: CLRERR makes no check; a word of its opcode that is more than the opcode raises, so it clears
nothing. -/
theorem clrerrClearsTheErrorAlone : Obligations.ClrerrClearsTheErrorAlone := fun s =>
  ⟨exec_clrerr_eq s, decode_encode .clrerr, fun _ hop hne => stepOf_plain_bad_field s hop (by decide) hne⟩

end Sys2Proof.Proofs
end

section
/-! The digests (43_digest_and_control.md R180 to R184): their bytes are those of the accumulators, as numbers, in the
window, and put together again in the word views. -/

namespace Sys2Proof.Proofs

open Sys2Proof Sys2Proof.Machine Sys2Proof.Laws

/-! ### The bytes of a lane -/

theorem byteOf_eq_ofNat (w : Word) (i : Nat) : byteOf w i = BitVec.ofNat 8 (w.toNat / 256 ^ i) := by
  apply BitVec.eq_of_toNat_eq
  rw [byteOf_toNat, BitVec.toNat_ofNat]

theorem laneByte_eq_ofNat (d : DWord) (i : Nat) : laneByte d i = BitVec.ofNat 8 (d.toNat / 256 ^ i) := by
  rw [laneByte, BitVec.extractLsb', Nat.shiftRight_eq_div_pow, pow_mul]
  rfl

/-- The bytes of the low half are the first four of the lane (R53). -/
theorem byteOf_lowWord (d : DWord) {j : Nat} (hj : j < 4) : byteOf (lowWord d) j = laneByte d j := by
  have h := extract_joinWords (highWord d) (lowWord d) j (by omega)
  rw [joinWords_halves, if_pos hj, Nat.mod_eq_of_lt hj] at h
  exact h.symm

/-- The bytes of the high half are the last four of the lane (R53). -/
theorem byteOf_highWord (d : DWord) {j : Nat} (hj : j < 4) : byteOf (highWord d) j = laneByte d (4 + j) := by
  have h := extract_joinWords (highWord d) (lowWord d) (4 + j) (by omega)
  rw [joinWords_halves, if_neg (by omega), Nat.add_mod_left, Nat.mod_eq_of_lt hj] at h
  exact h.symm

/-- Two registers that hold the halves of a lane, one after the other, show its eight bytes in the window (R54). -/
theorem windowByte_lane {lo hi : Reg} {s : State} {d : DWord} (hoff : regOffset hi = regOffset lo + BitVec.ofNat 8 4)
    (hlo : readReg lo s = lowWord d) (hhi : readReg hi s = highWord d) {i : Nat} (hi8 : i < 8) :
    windowByte s (regOffset lo + BitVec.ofNat 8 i) = some (laneByte d i) := by
  rcases Nat.lt_or_ge i 4 with h4 | h4
  · rw [windowByte_regOffset lo s h4, hlo, byteOf_lowWord d h4]
  · obtain ⟨j, rfl⟩ := Nat.exists_eq_add_of_le h4
    have hj : j < 4 := by omega
    rw [BitVec.ofNat_add, ← BitVec.add_assoc, ← hoff, windowByte_regOffset hi s hj, hhi, byteOf_highWord d hj]

/-! ### A word from its bytes -/

/-- Past the end of a byte list the missing bytes are 0 (R183). -/
theorem keyByte_of_length_le {key : List Byte} {i : Nat} (h : key.length ≤ i) : keyByte key i = 0 :=
  List.getD_eq_default key 0 h

theorem keyByte_of_getElem? {key : List Byte} {i : Nat} {b : Byte} (h : key[i]? = some b) : keyByte key i = b := by
  rw [keyByte, List.getD_eq_getElem?_getD, h, Option.getD_some]

/-- A word is assembled from its own bytes (R182). -/
theorem keyWord_of_bytes {key : List Byte} {i : Nat} {w : Word} (h : ∀ j < 4, key[i + j]? = some (byteOf w j)) :
    keyWord key i = w := by
  have hbyte (j : Nat) (hj : j < 4) : keyByte key (i + j) = byteOf w j := keyByte_of_getElem? (h j hj)
  rw [keyWord, hbyte 1 (by decide), hbyte 2 (by decide), hbyte 3 (by decide), ← Nat.add_zero i,
    hbyte 0 (by decide), wordOfBytes_byteOf]

/-- The eight bytes of a lane make its low half, then its high half (R182). -/
theorem keyWord_of_laneBytes {key : List Byte} {i : Nat} {d : DWord}
    (h : ∀ j < 8, key[i + j]? = some (laneByte d j)) :
    keyWord key i = lowWord d ∧ keyWord key (i + 4) = highWord d := by
  constructor <;> refine keyWord_of_bytes fun j hj => ?_
  · rw [byteOf_lowWord d hj, h j (by omega)]
  · rw [byteOf_highWord d hj, Nat.add_assoc, h (4 + j) (by omega)]

/-- The eight bytes of a lane make the lane (R183). -/
theorem keyDWord_of_laneBytes {key : List Byte} {i : Nat} {d : DWord}
    (h : ∀ j < 8, key[i + j]? = some (laneByte d j)) : keyDWord key i = d := by
  obtain ⟨hlow, hhigh⟩ := keyWord_of_laneBytes h
  rw [keyDWord, hlow, hhigh, joinWords_halves]

theorem joinWords_zero_left (w : Word) : joinWords 0 w = w.setWidth 64 := by
  apply BitVec.eq_of_toNat_eq
  rw [joinWords_toNat, BitVec.toNat_setWidth_of_le (by decide)]
  exact Nat.add_zero w.toNat

/-- Four bytes with nothing after them make their word zero-extended (R183). -/
theorem keyDWord_of_four_bytes {key : List Byte} {w : Word} (hlen : key.length = 4)
    (h : ∀ j < 4, key[j]? = some (byteOf w j)) : keyDWord key 0 = w.setWidth 64 := by
  have hlow : keyWord key 0 = w := keyWord_of_bytes fun j hj => by rw [Nat.zero_add, h j hj]
  have hhigh : keyWord key 4 = 0 := by
    have hbyte (j : Nat) : keyByte key (4 + j) = 0 := keyByte_of_length_le (by omega)
    rw [keyWord, hbyte 1, hbyte 2, hbyte 3, ← Nat.add_zero 4, hbyte 0]
    rfl
  rw [keyDWord, hlow, hhigh, joinWords_zero_left]

/-! ### The digest of an accumulator -/

/-- The digest of a 32-bit accumulator (R180). -/
def digestOf32 (h : Word) : Digest := .four (Vector.ofFn fun i => byteOf h i)

/-- The digest of the lanes of a 128-bit accumulator (R181). -/
def digestOf128 (h1 h2 : DWord) : Digest :=
  .sixteen (Vector.ofFn fun i => if i.val < 8 then laneByte h1 i else laneByte h2 (i - 8))

/-- The 32-bit digest exists exactly in DONE and is that of H32 (R180). -/
theorem digest32_eq_some_iff {s : State} {d : Digest} :
    digest32 s = some d ↔ s.phase32 = .done ∧ d = digestOf32 s.h32 := by
  rw [digest32, Option.ite_none_right_eq_some, Option.some_inj, eq_comm (a := d), digestOf32]

/-- The 128-bit digest exists exactly in DONE and is that of H1 and H2 (R181). -/
theorem digest128_eq_some_iff {s : State} {d : Digest} :
    digest128 s = some d ↔ s.phase128 = .done ∧ d = digestOf128 s.h1 s.h2 := by
  rw [digest128, Option.ite_none_right_eq_some, Option.some_inj, eq_comm (a := d), digestOf128]

@[simp] theorem length_asBytes_digestOf32 (h : Word) : (digestOf32 h).asBytes.length = 4 := Vector.length_toList

@[simp] theorem length_asBytes_digestOf128 (h1 h2 : DWord) : (digestOf128 h1 h2).asBytes.length = 16 :=
  Vector.length_toList

theorem asBytes_digestOf32 (h : Word) {i : Nat} (hi : i < 4) : (digestOf32 h).asBytes[i]? = some (byteOf h i) := by
  simp [digestOf32, Digest.asBytes, hi]

/-- The first eight bytes are those of H1, at positions `0 + i` as `keyWord_of_laneBytes` counts them (R181). -/
theorem asBytes_digestOf128_h1 (h1 h2 : DWord) :
    ∀ i < 8, (digestOf128 h1 h2).asBytes[0 + i]? = some (laneByte h1 i) := fun i hi => by
  simp [digestOf128, Digest.asBytes, hi, show i < 16 by omega]

/-- The other eight are those of H2 (R181). -/
theorem asBytes_digestOf128_h2 (h1 h2 : DWord) :
    ∀ i < 8, (digestOf128 h1 h2).asBytes[8 + i]? = some (laneByte h2 i) := fun i hi => by
  simp [digestOf128, Digest.asBytes, show 8 + i < 16 by omega]

/-! ### The word views of a digest -/

theorem asU32Words_digestOf32 (h : Word) : (digestOf32 h).asU32Words = [h] := by
  have hword : keyWord (digestOf32 h).asBytes 0 = h :=
    keyWord_of_bytes fun j hj => by rw [Nat.zero_add, asBytes_digestOf32 h hj]
  exact congrArg (fun w => [w]) hword

theorem asU64Words_digestOf32 (h : Word) : (digestOf32 h).asU64Words = [h.setWidth 64] := by
  have hdword : keyDWord (digestOf32 h).asBytes 0 = h.setWidth 64 :=
    keyDWord_of_four_bytes (length_asBytes_digestOf32 h) fun _ => asBytes_digestOf32 h
  exact congrArg (fun d => [d]) hdword

theorem asU32Words_digestOf128 (h1 h2 : DWord) :
    (digestOf128 h1 h2).asU32Words = [lowWord h1, highWord h1, lowWord h2, highWord h2] := by
  obtain ⟨hlow1, hhigh1⟩ := keyWord_of_laneBytes (asBytes_digestOf128_h1 h1 h2)
  obtain ⟨hlow2, hhigh2⟩ := keyWord_of_laneBytes (asBytes_digestOf128_h2 h1 h2)
  rw [← hlow1, ← hhigh1, ← hlow2, ← hhigh2]
  rfl

theorem asU64Words_digestOf128 (h1 h2 : DWord) : (digestOf128 h1 h2).asU64Words = [h1, h2] := by
  have hlane1 := keyDWord_of_laneBytes (asBytes_digestOf128_h1 h1 h2)
  have hlane2 := keyDWord_of_laneBytes (asBytes_digestOf128_h2 h1 h2)
  calc (digestOf128 h1 h2).asU64Words
      = [keyDWord (digestOf128 h1 h2).asBytes 0, keyDWord (digestOf128 h1 h2).asBytes 8] := rfl
    _ = [h1, h2] := by rw [hlane1, hlane2]

/-! ### The digests in the window -/

theorem windowByte_h32 (s : State) {i : Nat} (hi : i < 4) :
    windowByte s (BitVec.ofNat 8 (0x18 + i)) = some (byteOf s.h32 i) := by
  rw [BitVec.ofNat_add]
  exact windowByte_regOffset .h32 s hi

theorem windowByte_h1 (s : State) {i : Nat} (hi : i < 8) :
    windowByte s (BitVec.ofNat 8 (0x40 + i)) = some (laneByte s.h1 i) := by
  rw [BitVec.ofNat_add]
  exact windowByte_lane (lo := .h1_lo) (hi := .h1_hi) rfl rfl rfl hi

theorem windowByte_h2 (s : State) {i : Nat} (hi : i < 8) :
    windowByte s (BitVec.ofNat 8 (0x48 + i)) = some (laneByte s.h2 i) := by
  rw [BitVec.ofNat_add]
  exact windowByte_lane (lo := .h2_lo) (hi := .h2_hi) rfl rfl rfl hi

/-! ### The obligations -/

/-- Settles O49: the digest of `digest32_eq_some_iff`; its bytes are those of H32, which the window shows. -/
theorem digest32IsTheBytesOfH32 : Obligations.Digest32IsTheBytesOfH32 := by
  intro s
  refine ⟨fun hp => if_neg hp, fun hp => ⟨digestOf32 s.h32, digest32_eq_some_iff.2 ⟨hp, rfl⟩,
    length_asBytes_digestOf32 s.h32, fun i hi => ⟨?_, ?_⟩⟩⟩
  · rw [asBytes_digestOf32 _ hi, byteOf_eq_ofNat]
  · rw [asBytes_digestOf32 _ hi, windowByte_h32 s hi]

/-- Settles O50: the digest of `digest128_eq_some_iff`, lane by lane. -/
theorem digest128IsTheBytesOfH1ThenH2 : Obligations.Digest128IsTheBytesOfH1ThenH2 := by
  intro s
  refine ⟨fun hp => if_neg hp, fun hp => ⟨digestOf128 s.h1 s.h2, digest128_eq_some_iff.2 ⟨hp, rfl⟩,
    length_asBytes_digestOf128 s.h1 s.h2, fun i hi => ⟨?_, ?_⟩, fun i hi => ?_⟩⟩
  · rw [← laneByte_eq_ofNat, ← asBytes_digestOf128_h1 s.h1 s.h2 i hi, Nat.zero_add]
  · rw [asBytes_digestOf128_h2 _ _ _ hi, laneByte_eq_ofNat]
  · rcases Nat.lt_or_ge i 8 with h8 | h8
    · rw [windowByte_h1 s h8, ← asBytes_digestOf128_h1 s.h1 s.h2 i h8, Nat.zero_add]
    · obtain ⟨j, rfl⟩ := Nat.exists_eq_add_of_le h8
      have hj : j < 8 := by omega
      rw [asBytes_digestOf128_h2 _ _ _ hj, ← Nat.add_assoc, windowByte_h2 s hj]

/-- Settles O51: a view puts together the bytes the digest took apart, so it gives the registers back. -/
theorem digestViewsAreTheRegisters : Obligations.DigestViewsAreTheRegisters := by
  intro s d
  constructor <;> intro hd
  · obtain ⟨-, rfl⟩ := digest32_eq_some_iff.1 hd
    exact ⟨asU32Words_digestOf32 s.h32, asU64Words_digestOf32 s.h32⟩
  · obtain ⟨-, rfl⟩ := digest128_eq_some_iff.1 hd
    rw [← highWord_eq_setWidth, ← highWord_eq_setWidth, ← lowWord_eq_setWidth, ← lowWord_eq_setWidth]
    exact ⟨asU32Words_digestOf128 s.h1 s.h2, asU64Words_digestOf128 s.h1 s.h2⟩

end Sys2Proof.Proofs
end

section
/-! The errors (60_exceptions.md): when a command raises SEQUENCE, what an event that raises leaves, that what an event
does else does not depend on ERR and ERRCODE, and which accesses are bus errors. -/

namespace Sys2Proof.Proofs

open Sys2Proof Sys2Proof.Machine Sys2Proof.Safety Sys2Proof.Laws

/-! ### SEQUENCE (R201) -/

theorem absorbLegal_eq_false_iff {p : Phase} : absorbLegal p = false ↔ p = .idle ∨ p = .tailed ∨ p = .done := by
  cases p <;> simp [absorbLegal]

/-- On a block with ERR = 0 a command whose field is right ends with code 3 exactly out of its phase. -/
theorem exec_records_sequence_iff {i : Instr} {s : State} (herr : s.err = false) (hf : i.wellFormed = true) :
    (∃ t, exec i s = .next t ∧ t.err = true ∧ t.errCode = 3) ↔ phaseLegal i s = false := by
  constructor
  · rintro ⟨t, ht, hterr, -⟩
    by_contra hp
    have hkeeps : t.err = false := by
      by_cases hi : i = .clrerr
      · subst hi
        rw [exec_clrerr, checked_true] at ht; cases ht
        exact clearError_err s
      · exact (exec_error_fields_of_legal hf (by simpa using hp) hi ht).1.trans herr
    rw [hkeeps] at hterr; cases hterr
  · intro hp
    exact ⟨raised 3 s, exec_of_phase_illegal hf hp, by simp [herr]⟩

/-- Settles O27: SEQUENCE is raised where `phaseLegal` fails, which the table of R82 lists by command. -/
theorem sequenceIsRaisedExactlyOutOfPhase : Obligations.SequenceIsRaisedExactlyOutOfPhase := by
  intro i s herr hf
  rw [exec_records_sequence_iff herr hf]
  cases i <;> simp [phaseLegal, absorbLegal_eq_false_iff, finalLegal_eq_false_iff]

/-! ### Bus errors as steps (R207) -/

theorem stepOf_bad_read {off : Offset} {size : AccessSize} (s : State)
    (h : wordAligned off size = false ∨ regAt off = none) :
    stepOf (.read off size) s = .next (answered 0 true (raised 4 s)) := by
  rw [stepOf_eq_perform, perform_bad_read s h, busError_eq]

/-- Where a write is a bus error it is one in every state: the state `s₀` in which `h` is known need not be `s`. -/
theorem stepOf_bad_write {off : Offset} {size : AccessSize} {v : Word} {s₀ : State} (s : State)
    (h : wordAligned off size = false ∨ regAt off = none ∨
      ∃ r, r ≠ .cmd ∧ regAt off = some r ∧ writeReg r v s₀ = none) :
    stepOf (.write off size v) s = .next (answered 0 true (raised 4 s)) := by
  rw [stepOf_eq_perform, perform_bad_write s ?_, busError_eq]
  exact h.imp_right (·.imp_right fun ⟨r, hr, ho, hw⟩ => ⟨r, hr, ho, writeReg_eq_none_of s hw⟩)

/-! ### What an event that raises leaves (R203, R204) -/

/-- Settles O29: on the block with ERR cleared only a command, a rejected word or a bus error can leave ERR set, and
each raises the same code in every state. -/
theorem errorsArePrecise : Obligations.ErrorsArePrecise := by
  rintro e s c ⟨t, ht, herr, hcode⟩
  rw [stepOf_eq_perform] at ht
  cases perform_cases ht with
  | reset h => simp [h] at herr
  | read r h => simp [h] at herr
  | store r v u hw h => simp [h, writeReg_error_fields hw] at herr
  | command w i u hd he h =>
    rcases exec_error_cases he with ⟨k, hk, rfl, -, hraised⟩ | ⟨-, rfl⟩ | ⟨-, hkeeps, -⟩
    · obtain rfl : k = c := by simpa [h] using hcode
      exact ⟨by tauto, false, stepOf_command hd (hraised s.err s.errCode), by rcases hk with rfl | rfl <;> decide⟩
    · simp [h] at herr
    · simp [h, hkeeps] at herr
  | rejected w r hd h =>
    obtain rfl : errorCode (rejectError r) = c := by simpa [h] using hcode
    exact ⟨by cases r <;> decide, false, stepOf_rejected s hd, by cases r <;> decide⟩
  | busErrorRead off size hb h =>
    obtain rfl : errorCode .bus = c := by simpa [h] using hcode
    exact ⟨by decide, true, stepOf_bad_read s hb, by decide⟩
  | busErrorWrite off size v hb h =>
    obtain rfl : errorCode .bus = c := by simpa [h] using hcode
    exact ⟨by decide, true, stepOf_bad_write s hb, by decide⟩

/-! ### Errors do not block (R208) -/

/-- The registers are those of the three units and the error fields (R21). -/
theorem eq_of_views {t t' : State} (h32 : viewU32 t' = viewU32 t) (h128 : viewU128 t' = viewU128 t)
    (hP : viewP t' = viewP t) (hpending : t'.pending = t.pending) :
    t' = { t with err := t'.err, errCode := t'.errCode, answer := t'.answer } := by
  simp only [viewU32_eq_iff, viewU128_eq_iff, viewP_eq_iff] at h32 h128 hP
  cases t
  cases t'
  simp_all

/-- Settles O30: ERR and ERRCODE belong to no unit, and what an event leaves in a unit depends on that unit alone. -/
theorem errorsDoNotBlock : Obligations.ErrorsDoNotBlock := by
  intro e s t b c h
  obtain ⟨t', h'⟩ := perform_answers_next e { s with err := b, errCode := c }
  rw [stepOf_eq_perform] at h ⊢
  exact ⟨t', h', eq_of_views (isUnitView_viewU32.perform_congr h' h rfl) (isUnitView_viewU128.perform_congr h' h rfl)
    (isUnitView_viewP.perform_congr h' h rfl) ((perform_pending h').trans (perform_pending h).symm)⟩

/-! ### Where accesses are bus errors (R207, R51) -/

/-- The offsets of R51 that hold no register, as ranges of byte offsets. -/
def ReservedOffset (o : Nat) : Prop := o = 0x0C ∨ (0x24 ≤ o ∧ o ≤ 0x2C) ∨ (0x58 ≤ o ∧ o ≤ 0x5C) ∨ 0x70 ≤ o

/-- The offsets of the registers that a host cannot write (R51): ID, STATUS, H32, LEN32, H1 to LEN128, PY. -/
def ReadOnlyOffset (o : Nat) : Prop :=
  o = 0x00 ∨ o = 0x08 ∨ o = 0x18 ∨ o = 0x1C ∨ (0x40 ≤ o ∧ o ≤ 0x54) ∨ (0x68 ≤ o ∧ o ≤ 0x6C)

/-- Where the map holds no register: off a word boundary, or in a reserved range (R51). -/
theorem regAt_eq_none_iff {off : Offset} :
    regAt off = none ↔ off.toNat % 4 ≠ 0 ∨ ReservedOffset off.toNat := by
  have hlt := off.isLt
  have hnone : regAt off = none ↔ ∀ r ∈ mappedRegs, (regOffset r).toNat ≠ off.toNat := by
    simp only [regAt, List.find?_eq_none, decide_eq_true_eq, BitVec.toNat_eq, ne_eq]
  rw [hnone]
  simp only [mappedRegs, List.forall_mem_cons, List.not_mem_nil, false_imp_iff, implies_true, and_true, regOffset,
    BitVec.ofNat_eq_ofNat, BitVec.reduceToNat, ReservedOffset]
  omega

/-- The accesses that are bus errors in both directions, as a read is one (R207). -/
theorem badRead_iff {off : Offset} {size : AccessSize} : (wordAligned off size = false ∨ regAt off = none) ↔
    size ≠ .four ∨ off.toNat % 4 ≠ 0 ∨ ReservedOffset off.toNat := by
  rw [regAt_eq_none_iff, ← Bool.not_eq_true, wordAligned_iff]
  tauto

/-- Any other access is at the offset of a register, 4 bytes wide. -/
theorem exists_reg_of_not_badRead {off : Offset} {size : AccessSize}
    (h : ¬ (size ≠ .four ∨ off.toNat % 4 ≠ 0 ∨ ReservedOffset off.toNat)) :
    size = .four ∧ ∃ r, off = regOffset r := by
  obtain ⟨hsize, hoff⟩ := not_or.1 h
  obtain ⟨r, hr⟩ := Option.ne_none_iff_exists'.1 (mt regAt_eq_none_iff.1 hoff)
  exact ⟨not_not.1 hsize, r, regAt_eq_some hr⟩

/-- The read-only registers are those that take neither a store nor a command (R23, R51). -/
theorem readOnlyOffset_iff (r : Reg) (v : Word) (s : State) :
    ReadOnlyOffset (regOffset r).toNat ↔ r ≠ .cmd ∧ writeReg r v s = none := by
  cases r <;> simp [ReadOnlyOffset, regOffset, writeReg]

/-- Every write to CMD is completed, whatever the command raised (R52). -/
theorem stepOf_write_cmd (w : Word) (s : State) :
    ∃ t, stepOf (.write (regOffset .cmd) .four w) s = .next (answered 0 false t) := by
  cases hd : decode w with
  | ok i =>
    obtain ⟨t, ht⟩ := exec_answers_next i s
    exact ⟨t, stepOf_command hd ht⟩
  | error r => exact ⟨_, stepOf_rejected s hd⟩

/-- A write to a register that is not read-only is completed: a command or a store (R52). -/
theorem stepOf_write_mapped {r : Reg} {v : Word} {s : State} (h : ¬ (r ≠ .cmd ∧ writeReg r v s = none)) :
    ∃ t, stepOf (.write (regOffset r) .four v) s = .next (answered 0 false t) := by
  by_cases hr : r = .cmd
  · exact hr ▸ stepOf_write_cmd v s
  · obtain ⟨t, ht⟩ := Option.ne_none_iff_exists'.1 fun hw => h ⟨hr, hw⟩
    exact ⟨t, stepOf_store ht⟩

/-- Settles O38: `badRead_iff` is the condition under which both accesses fail; elsewhere the offset is a register's,
which can be read, and written exactly if it is not read-only. -/
theorem busErrorsExactlyOnIllegalAccesses : Obligations.BusErrorsExactlyOnIllegalAccesses := by
  intro s off size v o reserved readOnly badRead
  refine ⟨fun hbad => stepOf_bad_read s (badRead_iff.2 hbad), fun hok => ?_, fun hbad => ?_, fun hok => ?_⟩
  · obtain ⟨rfl, r, rfl⟩ := exists_reg_of_not_badRead hok
    refine ⟨readReg r s, stepOf_read r s, fun ho => ?_⟩
    obtain rfl : r = .cmd := by
      have hr : regAt (regOffset r) = some .cmd := congrArg regAt (BitVec.eq_of_toNat_eq (y := 0x04) ho)
      simpa using hr
    rfl
  · by_cases hread : badRead
    · exact stepOf_bad_write (s₀ := s) s ((badRead_iff.2 hread).imp_right .inl)
    · obtain ⟨rfl, r, rfl⟩ := exists_reg_of_not_badRead hread
      obtain ⟨hcmd, hw⟩ := (readOnlyOffset_iff r v s).1 (hbad.resolve_left hread)
      exact stepOf_write_readOnly hcmd hw
  · obtain ⟨hread, hwrite⟩ := not_or.1 hok
    obtain ⟨rfl, r, rfl⟩ := exists_reg_of_not_badRead hread
    exact stepOf_write_mapped (mt (readOnlyOffset_iff r v s).2 hwrite)

end Sys2Proof.Proofs
end

section
/-! Progress, the reset event and the lengths of the canonical sequences (70_reset_and_hazards.md). -/

namespace Sys2Proof.Proofs

open Sys2Proof Sys2Proof.Machine Sys2Proof.Safety Sys2Proof.Laws

/-! ### Progress and reset (R243, R230, R232) -/

/-- Settles O7: the step performs the first pending event, which always answers and leaves the rest pending. -/
theorem everyPendingEventHasAStep : Obligations.EveryPendingEventHasAStep := by
  intro s e rest hs
  obtain ⟨t, ht⟩ := perform_answers_next e { s with pending := rest }
  exact ⟨t, (step_of_pending hs).trans ht, perform_pending ht⟩

/-- Settles O48: after reset both phases are IDLE, where no BLOCK, TAIL or FINAL is legal. -/
theorem resetEventSetsEveryRegister : Obligations.ResetEventSetsEveryRegister := by
  intro s t ht
  have h32 : t.phase32 = .idle := by rw [ht]; rfl
  have h128 : t.phase128 = .idle := by rw [ht]; rfl
  refine ⟨?_, exec_block32_out_of_phase (by simp [h32]), exec_final32_out_of_phase (.inl h32),
    exec_block128_out_of_phase (by simp [h128]), exec_final128_out_of_phase (.inl h128),
    fun c hc => exec_tail128_out_of_phase (by simp [h128]) hc,
    fun c h1 h3 => exec_tail32_out_of_phase (by simp [h32]) ⟨h1, h3⟩⟩
  rw [stepOf_eq_perform, ht]
  rfl

/-! ### The lengths of the canonical sequences (R242) -/

theorem length_flatMap_range {α : Type} {f : Nat → List α} {c : Nat} (hf : ∀ i, (f i).length = c) (m : Nat) :
    ((List.range m).flatMap f).length = c * m := by
  simp [List.length_flatMap, hf, Nat.mul_comm]

theorem length_tailAccesses32 (key : List Byte) :
    (tailAccesses32 key).length = 2 * (if key.length % 4 > 0 then 1 else 0) := by
  unfold tailAccesses32
  split <;> rfl

theorem length_tailAccesses128 (key : List Byte) :
    (tailAccesses128 key).length = 5 * (if key.length % 16 > 0 then 1 else 0) := by
  unfold tailAccesses128
  split <;> rfl

/-- Settles O60: each block takes the writes of its load and one command, and so does the tail. -/
theorem canonicalSequencesHaveTheStatedLengths : Obligations.CanonicalSequencesHaveTheStatedLengths := by
  intro key seed
  have hblocks32 := length_flatMap_range (f := fun i => ld32 key (4 * i) ++ [cmd .block32]) (c := 2)
    (fun _ => rfl) (key.length / 4)
  have hblocks128 := length_flatMap_range (f := fun i => ld128 key (16 * i) ++ [cmd .block128]) (c := 5)
    (fun _ => rfl) (key.length / 16)
  constructor
  · simp only [canonical32, hashAccesses32, List.length_append, hblocks32, length_tailAccesses32, List.length_cons,
      List.length_nil]
  · simp only [canonical128, hashAccesses128, List.length_append, hblocks128, length_tailAccesses128,
      List.length_cons, List.length_nil]

end Sys2Proof.Proofs
end

section
/-! Sampling (70_reset_and_hazards.md R234): an event does the same to the rest of the block whatever an operand holds
that it does not sample. -/

namespace Sys2Proof.Proofs

open Sys2Proof Sys2Proof.Machine Sys2Proof.Safety Sys2Proof.Laws

/-! ### Hiding an operand -/

/-- The operand registers of R234: SEED32, DIN32, SEED128, DIN128_0..3, PX. -/
inductive Operand where
  | seed32 | din32 | seed128 | din128 | px

/-- The commands that sample an operand (R234). -/
def Operand.sampledBy : Operand → Instr → Bool
  | .seed32, .init32 => true
  | .din32, .block32 => true
  | .din32, .tail32 _ => true
  | .seed128, .init128 => true
  | .din128, .block128 => true
  | .din128, .tail128 _ => true
  | .px, i => isPCommand i
  | _, _ => false

/-- The state `s` with the operand and the answer of `u`. -/
def Operand.copy (o : Operand) (u s : State) : State :=
  match o with
  | .seed32 => { s with seed32 := u.seed32, answer := u.answer }
  | .din32 => { s with din32 := u.din32, answer := u.answer }
  | .seed128 => { s with seed128 := u.seed128, answer := u.answer }
  | .din128 => { s with din128_0 := u.din128_0, din128_1 := u.din128_1, din128_2 := u.din128_2,
                        din128_3 := u.din128_3, answer := u.answer }
  | .px => { s with px := u.px, answer := u.answer }

/-- What is left of the state when the operand and the answer are hidden. -/
def Operand.hide (o : Operand) (s : State) : State := o.copy State.reset s

@[simp] theorem Operand.hide_hide (o : Operand) (s : State) : o.hide (o.hide s) = o.hide s := by cases o <;> rfl

@[simp] theorem Operand.hide_respond (o : Operand) (v : Word) (b : Bool) (s : State) :
    o.hide (respond v b s) = o.hide s := by cases o <;> rfl

@[simp] theorem Operand.hide_phase32 (o : Operand) (s : State) : (o.hide s).phase32 = s.phase32 := by cases o <;> rfl

@[simp] theorem Operand.hide_phase128 (o : Operand) (s : State) : (o.hide s).phase128 = s.phase128 := by cases o <;> rfl

/-- States alike but for the operand and the answer differ in nothing else. -/
theorem Operand.eq_copy_of_hide_eq {o : Operand} {s s' : State} (h : o.hide s = o.hide s') : s' = o.copy s' s :=
  calc
    s' = o.copy s' (o.hide s') := by cases o <;> rfl
    _ = o.copy s' (o.hide s) := by rw [h]
    _ = o.copy s' s := by cases o <;> rfl

theorem Operand.hide_resetBlock (o : Operand) (s : State) : resetBlock (o.hide s) = resetBlock s := by cases o <;> rfl

theorem Operand.recordError_hide (o : Operand) (k : ErrorKind) (s : State) :
    recordError k (o.hide s) = o.hide (recordError k s) := by
  have herr : (o.hide s).err = s.err := by cases o <;> rfl
  rcases recordError_cases k s with ⟨hs, e⟩ | ⟨hs, e⟩
  · rw [e, recordError, herr, hs, if_pos rfl]
  · rw [e, recordError, herr, hs]
    cases o <;> rfl

/-- A store hits the operand or passes it by: what it leaves of the rest is the same (R59). -/
theorem Operand.writeReg_hide (o : Operand) {r : Reg} {v : Word} {s u : State} (h : writeReg r v s = some u) :
    ∃ u₀, writeReg r v (o.hide s) = some u₀ ∧ o.hide u₀ = o.hide u := by
  rcases writeReg_cases h with ⟨rfl, rfl⟩ | ⟨rfl, rfl⟩ | ⟨rfl, rfl⟩ | ⟨rfl, rfl⟩ | ⟨rfl, rfl⟩ | ⟨rfl, rfl⟩ |
    ⟨rfl, rfl⟩ | ⟨rfl, rfl⟩ | ⟨rfl, rfl⟩
  all_goals
    refine ⟨_, rfl, ?_⟩
    cases o <;> simp only [Operand.hide, Operand.copy]

/-- A guarded update whose effect carries the hiding along does so as a whole. -/
theorem Operand.checked_hide (o : Operand) {f p : Bool} {act : State → State} {s t : State}
    (hact : act (o.hide s) = o.hide (act s)) (h : checked f p act s = .next t) :
    checked f p act (o.hide s) = .next (o.hide t) :=
  checked_commutes (o.recordError_hide · s) (fun _ _ => hact) h

/-- A command that does not sample the operand does the same without it: neither its phase check nor its effect reads
it. -/
theorem Operand.exec_hide (o : Operand) {i : Instr} {s t : State} (hi : o.sampledBy i = false)
    (h : exec i s = .next t) : exec i (o.hide s) = .next (o.hide t) := by
  cases i
  all_goals
    simp only [exec_nop, exec_clrerr, exec_init32, exec_block32, exec_tail32, exec_final32, exec_init128, exec_block128,
      exec_tail128, exec_final128, exec_rotl32, exec_rotl64, exec_fmix32, exec_fmix64, o.hide_phase32,
      o.hide_phase128] at h ⊢
    exact o.checked_hide (by cases o <;> cases hi <;> rfl) h

/-! ### What an event does with the operand hidden -/

/-- An event that does not sample the operand leaves of the rest what it leaves with the operand hidden. -/
theorem Operand.perform_hide {o : Operand} {e : HostEvent} {s t : State}
    (he : ∀ i, commandOf e = some i → o.sampledBy i = false) (h : perform e s = .next t) :
    ∃ t₀, perform e (o.hide s) = .next t₀ ∧ o.hide t₀ = o.hide t := by
  cases eventEffect e with
  | reset _ hp =>
    rw [hp] at h; cases h
    exact ⟨_, hp _, by rw [o.hide_resetBlock]⟩
  | command i hc hp =>
    obtain ⟨u, hu, rfl⟩ := perform_of_commandOf hc h
    exact ⟨_, hp _ _ (o.exec_hide (he i hc) hu), by simp⟩
  | read r _ hp =>
    rw [hp] at h; cases h
    exact ⟨_, hp _, by simp⟩
  | store r v _ hp =>
    obtain ⟨u, hw, hu⟩ := hp s
    rw [hu] at h; cases h
    obtain ⟨u₁, hw₁, hu₁⟩ := hp (o.hide s)
    obtain ⟨u₀, hw₀, hhide⟩ := o.writeReg_hide hw
    obtain rfl : u₀ = u₁ := Option.some.inj (hw₀.symm.trans hw₁)
    exact ⟨_, hu₁, by simpa using hhide⟩
  | error k b _ hp =>
    rw [hp] at h; cases h
    exact ⟨_, hp _, by simp [o.recordError_hide]⟩

/-- Two states alike but for an operand that the event does not sample stay alike but for it and the answer. -/
theorem Operand.stepOf_eq_copy {o : Operand} {e : HostEvent} {s s' t t' : State} (h : stepOf e s = .next t)
    (h' : stepOf e s' = .next t') (hs : o.hide s' = o.hide s)
    (he : ∀ i, commandOf e = some i → o.sampledBy i = false) : t' = o.copy t' t := by
  rw [stepOf_eq_perform] at h h'
  obtain ⟨t₀, ht₀, ht⟩ := o.perform_hide he h
  obtain ⟨t₁, ht₁, ht'⟩ := o.perform_hide he h'
  obtain rfl : t₀ = t₁ := Host.Outcome.next.inj (ht₀.symm.trans (hs ▸ ht₁))
  exact o.eq_copy_of_hide_eq (ht.symm.trans ht')

/-- Settles O44: each operand is hidden from every event that does not sample it. -/
theorem operandsAreSampledOnlyByTheirCommands : Obligations.OperandsAreSampledOnlyByTheirCommands := by
  intro e s s' t t' h h'
  refine ⟨fun hs hi => ?_, fun hs hb ht => ?_, fun hs hi => ?_, fun hs hb ht => ?_, fun hs hp => ?_⟩
  · refine Operand.stepOf_eq_copy (o := .seed32) h h' (congrArg (Operand.hide .seed32) hs :) fun i hc => ?_
    cases i with
    | init32 => exact absurd hc hi
    | _ => rfl
  · refine Operand.stepOf_eq_copy (o := .din32) h h' (congrArg (Operand.hide .din32) hs :) fun i hc => ?_
    cases i with
    | block32 => exact absurd hc hb
    | tail32 c => exact absurd hc (ht c)
    | _ => rfl
  · refine Operand.stepOf_eq_copy (o := .seed128) h h' (congrArg (Operand.hide .seed128) hs :) fun i hc => ?_
    cases i with
    | init128 => exact absurd hc hi
    | _ => rfl
  · refine Operand.stepOf_eq_copy (o := .din128) h h' (congrArg (Operand.hide .din128) hs :) fun i hc => ?_
    cases i with
    | block128 => exact absurd hc hb
    | tail128 c => exact absurd hc (ht c)
    | _ => rfl
  · exact Operand.stepOf_eq_copy (o := .px) h h' (congrArg (Operand.hide .px) hs :) hp

end Sys2Proof.Proofs
end
